-- ==== Sys2Proof/Word.lean ====
section
/-! DEFINITION. The smallest types of the block: the byte, the one-bit cell and text. -/

namespace Sys2Proof

/-- One byte, bit 0 its least significant bit (rule R8). -/
abbrev Byte := BitVec 8

/-- A one-bit cell: `true` is 1, white, set; `false` is 0, black, clear (rules R8, R15). -/
abbrev Bit := Bool

/-- Text of the host-side Renderer and of the command listing: a sequence of characters (rule R100). -/
abbrev Text := List Char

end Sys2Proof
end

