-- ==== Sys2Proof/Config.lean ====
section
/-! DEFINITION. What an implementation fixes (the parameters of rule R6) and the one free value,
the external collaborator's `toGray`. -/

namespace Sys2Proof

/-- The parameters of rule R6 that one block fixes when it is built. The model carries them beside the
architectural state, so a statement over every state is a statement over every choice of them
(DESIGN CHOICE, log entry 1). `THRESH` and `ROWS_PER_BYTE` are constants of the source (rule R5). -/
structure Params where
  /-- DIMW, the width in bits of the dimension registers W and H. -/
  dimw : Nat
  /-- LENW, the width in bits of the length LEN of a raw byte operand. -/
  lenw : Nat
  /-- ZERO_DIM_FAULT: whether a width or height of 0 raises ValueErrorKind (decision D9). -/
  zeroDimFault : Bool
  deriving DecidableEq, Repr

/-- ARGW, the width of the argument fields of the command word: `2 * DIMW` (rule R6). -/
def Params.argw (p : Params) : Nat := 2 * p.dimw

/-- The constraints of rule R6 on the open parameters: DIMW >= 4 and LENW >= 2 * DIMW. -/
abbrev Params.Ok (p : Params) : Prop := 4 ≤ p.dimw ∧ 2 * p.dimw ≤ p.lenw

/-- The reference values of rule R6 and decision D9: DIMW 16, LENW 32, ZERO_DIM_FAULT true. -/
def Params.reference : Params := { dimw := 16, lenw := 32, zeroDimFault := true }

/-- `toGray` (rule R73, decision D18): the external collaborator's conversion of a cell of a MODE = OTHER
buffer to an intensity 0..255. A FREE VALUE: it has no body, so nothing is known of it but that it depends
on the cell alone. A cell of the collaborator's opaque type is a natural number that names it (log entry 2). -/
opaque Config.toGray : Nat → Byte

end Sys2Proof
end

