-- ==== Sys2Proof/Machine/Objects.lean ====
section
/-! DEFINITION. The data the machine works on: pixel grids and operand objects as the machine reads them
(rules R15, R20), packed bitmaps (rule R16), and the command channel's own form of a command (rules R20, R22, R50). -/

namespace Sys2Proof

/-- A 2D pixel grid of width `w` and height `h`. `cols` is column first, then row: `G[x][y]` is row `y`
of column `x` (rule R8). -/
structure Grid (α : Type) where
  w    : Nat
  h    : Nat
  cols : List (List α)
  deriving DecidableEq, Repr

/-- A recognized pixel buffer, by its MODE (rules R20, R55): grayscale intensities, binary cells, or cells
of the collaborator's own type that need `toGray`. -/
inductive PixBuf where
  /-- MODE = GRAY: 8-bit intensities. -/
  | gray  (g : Grid Byte)
  /-- MODE = BIN: one-bit cells, 1 = white. -/
  | bin   (g : Grid Bit)
  /-- MODE = OTHER: opaque cells, read by `toGray` alone. -/
  | other (g : Grid Nat)
  deriving DecidableEq, Repr

/-- The operand object of a command (rule R20), its tags decoded. -/
inductive Operand where
  /-- KIND = UNRECOGNIZED, or the reserved KIND 3, which is treated as it (rule R55). -/
  | unrecognized
  /-- KIND = PIXBUF with the reserved MODE 3: no recognized pixel buffer (rule R55). -/
  | reservedMode
  /-- KIND = PIXBUF with MODE GRAY, BIN or OTHER. -/
  | pixBuf (p : PixBuf)
  /-- KIND = RAWBYTES; LEN is the length of the list. -/
  | rawBytes (bytes : List Byte)
  deriving DecidableEq, Repr

/-- A PackedBitmap, the result of PACK (rules R57, R80). -/
structure PackedBitmap where
  width  : Nat
  height : Nat
  bits   : List Byte
  deriving DecidableEq, Repr

/-- The operand object as it stands on the command channel (rule R20): the two tags as numbers, and the
fields that the tags may give a meaning to. A cell is a number: the intensity (GRAY), the 8-bit form of a
binary cell (BIN, rule R57), the name of an opaque cell (OTHER). -/
structure OperandObject where
  kind  : BitVec 2
  mode  : BitVec 2
  w     : Nat
  h     : Nat
  cells : List (List Nat)
  bytes : List Byte
  deriving DecidableEq, Repr

/-- The operand object whose every field is zero or empty: KIND = UNRECOGNIZED. It stands for the operand of
a command word that is given alone (log entry 11). -/
def OperandObject.zero : OperandObject :=
  { kind := 0#2, mode := 0#2, w := 0, h := 0, cells := [], bytes := [] }

/-- What the command channel carries (rules R22, R50): the command word, as the number its bits spell, and
the operand object beside it. -/
structure Command where
  word : Nat
  opnd : OperandObject
  deriving DecidableEq, Repr

/-- What the outside sends the block: a command (rule R22), or the platform's reset (rule R160). -/
inductive HostEvent where
  | command (c : Command)
  | reset
  deriving DecidableEq, Repr

end Sys2Proof
end

