-- ==== Sys2Proof/Machine/Grid.lean ====
section
/-! DEFINITION. Reading, building and mapping 2D grids (rules R8, R15, R20). -/

namespace Sys2Proof

/-- Cell `(x, y)` of a list of columns; none where no such cell exists. -/
def cellOf {α : Type} (cols : List (List α)) (x y : Nat) : Option α :=
  cols[x]?.bind fun col => col[y]?

/-- `G[x][y]`, none where the grid has no such cell (rule R8). -/
def Grid.cell {α : Type} (g : Grid α) (x y : Nat) : Option α := cellOf g.cols x y

/-- Whether cell `(x, y)` exists and is white (rule R8). -/
def Grid.white (g : Grid Bit) (x y : Nat) : Bool := g.cell x y == some true

/-- The `w` by `h` grid whose cell `(x, y)` is `f x y`. -/
def Grid.ofFn {α : Type} (w h : Nat) (f : Nat → Nat → α) : Grid α :=
  { w := w, h := h, cols := (List.range w).map fun x => (List.range h).map fun y => f x y }

/-- The grid of identical dimensions whose every cell is the image of the cell at the same place. -/
def Grid.map {α β : Type} (f : α → β) (g : Grid α) : Grid β :=
  { w := g.w, h := g.h, cols := g.cols.map fun c => c.map f }

end Sys2Proof
end

