-- ==== Sys2Proof/Syntax.lean ====
section
/-! DEFINITION. The commands of the block (rule R53): one constructor per row of the opcode table. -/

namespace Sys2Proof

/-- The nine commands of rule R53, one constructor per row of the opcode table. -/
inductive Instr where
  /-- QUANT opnd (rule R74). -/
  | quant (opnd : Operand)
  /-- PACK opnd (rule R83). -/
  | pack (opnd : Operand)
  /-- UNPACK opnd, w, h (rule R94). -/
  | unpack (opnd : Operand) (w h : Nat)
  /-- INVERT (rule R112). -/
  | invert
  /-- LDIMG opnd (rule R110). -/
  | ldimg (opnd : Operand)
  /-- LDRAW opnd, w, h (rule R111). -/
  | ldraw (opnd : Operand) (w h : Nat)
  /-- RDBIT x, y (rule R125). -/
  | rdbit (x y : Nat)
  /-- RDPIX x, y (rule R126). -/
  | rdpix (x y : Nat)
  /-- RDBYTE i (rule R127). -/
  | rdbyte (i : Nat)
  deriving DecidableEq, Repr

end Sys2Proof
end

