-- ==== Sys2Proof/WellFormed.lean ====
section
/-! DEFINITION. Which commands can stand on the command channel of a block with given parameters: operand
objects have the cells their dimensions promise (rule R20), and every number fits its field (rules R6, R20, R50). -/

namespace Sys2Proof

/-- The grid has `w` columns of `h` cells each: `cell[x][y]` exists for 0 <= x < W, 0 <= y < H and nowhere
else (rules R15, R20). -/
def Grid.shapeOk {α : Type} (g : Grid α) : Bool :=
  g.cols.length == g.w && g.cols.all fun c => c.length == g.h

/-- A dimension fits its DIMW bits (rules R12, R20). -/
def Params.fitsDim (p : Params) (n : Nat) : Bool := decide (n < 2 ^ p.dimw)

/-- An argument fits its ARGW bits (rule R50). -/
def Params.fitsArg (p : Params) (n : Nat) : Bool := decide (n < 2 ^ p.argw)

/-- The dimensions fit and the shape is right. -/
def Grid.wellFormed {α : Type} (p : Params) (g : Grid α) : Bool :=
  p.fitsDim g.w && p.fitsDim g.h && g.shapeOk

/-- A pixel buffer of rule R20. -/
def PixBuf.wellFormed (p : Params) : PixBuf → Bool
  | .gray g  => g.wellFormed p
  | .bin g   => g.wellFormed p
  | .other g => g.wellFormed p

/-- An operand object of rule R20: a pixel buffer as above, or raw bytes whose number fits LENW bits. -/
def Operand.wellFormed (p : Params) : Operand → Bool
  | .unrecognized => true
  | .reservedMode => true
  | .pixBuf b     => b.wellFormed p
  | .rawBytes bs  => decide (bs.length < 2 ^ p.lenw)

/-- A command that can stand on the channel. -/
def Instr.wellFormed (p : Params) : Instr → Bool
  | .quant o      => o.wellFormed p
  | .pack o       => o.wellFormed p
  | .unpack o w h => o.wellFormed p && p.fitsArg w && p.fitsArg h
  | .invert       => true
  | .ldimg o      => o.wellFormed p
  | .ldraw o w h  => o.wellFormed p && p.fitsArg w && p.fitsArg h
  | .rdbit x y    => p.fitsArg x && p.fitsArg y
  | .rdpix x y    => p.fitsArg x && p.fitsArg y
  | .rdbyte i     => p.fitsArg i

end Sys2Proof
end

