-- ==== Sys2Proof/Decode.lean ====
section
/-! DEFINITION. The decoder of the command channel, total on any word and any operand object and rejecting
by name, and after it the encoder, both written from the encodings of spec/30_encoding.md. -/

namespace Sys2Proof

/-- Why what stands on the channel is no command of the block. -/
inductive DecodeError where
  /-- The opcode is reserved (rule R54). The block answers REFUSED. -/
  | reservedOpcode (op : Byte)
  /-- What came beside the word is no operand object of rule R20 (log entry 10). -/
  | malformedOperand
  deriving DecidableEq, Repr

/-- The nine operations of the opcode map (rule R53). -/
inductive Op where
  | quant | pack | unpack | invert | ldimg | ldraw | rdbit | rdpix | rdbyte
  deriving DecidableEq, Repr

/-- The five command formats of rule R51: which of the operand object, arg0 and arg1 a command uses. -/
inductive Format where
  /-- `op` only. -/
  | n
  /-- `op` and the operand object. -/
  | o
  /-- `op`, the operand object, arg0 = width, arg1 = height. -/
  | od
  /-- `op`, arg0 = column, arg1 = row. -/
  | xy
  /-- `op`, arg0 = byte index. -/
  | i
  deriving DecidableEq, Repr

/-! ### The command word (rule R50) -/

/-- The opcode, bits [7:0] of the word. -/
def Command.op (c : Command) : Byte := BitVec.ofNat 8 c.word

/-- arg0, bits [7 + ARGW : 8] of the word, an unsigned number (rule R52). -/
def Command.arg0 (p : Params) (c : Command) : Nat := c.word / 2 ^ 8 % 2 ^ p.argw

/-- arg1, bits [7 + 2 * ARGW : 8 + ARGW] of the word, an unsigned number (rule R52). -/
def Command.arg1 (p : Params) (c : Command) : Nat := c.word / 2 ^ (8 + p.argw) % 2 ^ p.argw

/-! ### The opcode map (rule R53) -/

/-- The opcode value of an operation. -/
def Op.code : Op → Byte
  | .quant  => 0x01#8
  | .pack   => 0x02#8
  | .unpack => 0x03#8
  | .invert => 0x04#8
  | .ldimg  => 0x05#8
  | .ldraw  => 0x06#8
  | .rdbit  => 0x07#8
  | .rdpix  => 0x08#8
  | .rdbyte => 0x09#8

/-- The nine operations, in the opcode map's order. -/
def Op.all : List Op := [.quant, .pack, .unpack, .invert, .ldimg, .ldraw, .rdbit, .rdpix, .rdbyte]

/-- The operation that the whole opcode byte selects (mask 0xFF, rule R53); none for the reserved values
0x00 and 0x0A to 0xFF (rule R54). -/
def Op.ofByte (b : Byte) : Option Op := Op.all.find? fun o => o.code == b

/-- The format of an operation (rules R51, R53). -/
def Op.format : Op → Format
  | .quant  => .o
  | .pack   => .o
  | .unpack => .od
  | .invert => .n
  | .ldimg  => .o
  | .ldraw  => .od
  | .rdbit  => .xy
  | .rdpix  => .xy
  | .rdbyte => .i

/-- The operation of a command. -/
def Instr.op : Instr → Op
  | .quant _      => .quant
  | .pack _       => .pack
  | .unpack _ _ _ => .unpack
  | .invert       => .invert
  | .ldimg _      => .ldimg
  | .ldraw _ _ _  => .ldraw
  | .rdbit _ _    => .rdbit
  | .rdpix _ _    => .rdpix
  | .rdbyte _     => .rdbyte

/-! ### The operand object (rules R20, R55, R57) -/

/-- The fields of a PIXBUF operand read as a grid of numbers. -/
def OperandObject.rawGrid (o : OperandObject) : Grid Nat := { w := o.w, h := o.h, cols := o.cells }

/-- Every cell is an 8-bit value. -/
def OperandObject.cells8 (o : OperandObject) : Bool := o.cells.all fun c => c.all fun n => decide (n < 256)

/-- The 8-bit form of a binary cell, accepted: every nonzero value is white (rule R57). -/
def bitOfPixel (n : Nat) : Bit := n != 0

/-- The 8-bit form of a binary cell, presented: 255 for white, 0 for black (rule R57). -/
def pixelOfBit (b : Bit) : Nat := if b then 255 else 0

/-- A pixel buffer by its MODE (rule R55): 0 GRAY, 1 BIN, 2 OTHER; MODE 3 is reserved, whatever else the
object holds. The cells must be those the dimensions promise, and an 8-bit cell must be one. -/
def decodePixBuf (p : Params) (o : OperandObject) : Except DecodeError Operand :=
  if o.mode = 3#2 then .ok .reservedMode
  else if !(o.rawGrid.wellFormed p) then .error .malformedOperand
  else if o.mode = 2#2 then .ok (.pixBuf (.other o.rawGrid))
  else if !o.cells8 then .error .malformedOperand
  else if o.mode = 0#2 then .ok (.pixBuf (.gray (o.rawGrid.map (BitVec.ofNat 8))))
  else .ok (.pixBuf (.bin (o.rawGrid.map bitOfPixel)))

/-- The operand object by its KIND (rule R55): 1 PIXBUF, 2 RAWBYTES, and 0 and 3 UNRECOGNIZED. A field that
the tags give no meaning to is not read (rule R20). -/
def decodeOperand (p : Params) (o : OperandObject) : Except DecodeError Operand :=
  if o.kind = 1#2 then decodePixBuf p o
  else if o.kind = 2#2 then
    if o.bytes.length < 2 ^ p.lenw then .ok (.rawBytes o.bytes) else .error .malformedOperand
  else .ok .unrecognized

/-- A command of format O or OD: its operand object is decoded, and the command built from it. -/
def withOperand (p : Params) (c : Command) (mk : Operand → Instr) : Except DecodeError Instr :=
  match decodeOperand p c.opnd with
  | .ok o    => .ok (mk o)
  | .error e => .error e

/-- The command of an operation, its fields read as the operation's format says; a field the format does
not use is not read (rule R51). -/
def decodeFields (p : Params) (c : Command) : Op → Except DecodeError Instr
  | .quant  => withOperand p c .quant
  | .pack   => withOperand p c .pack
  | .unpack => withOperand p c fun o => .unpack o (c.arg0 p) (c.arg1 p)
  | .invert => .ok .invert
  | .ldimg  => withOperand p c .ldimg
  | .ldraw  => withOperand p c fun o => .ldraw o (c.arg0 p) (c.arg1 p)
  | .rdbit  => .ok (.rdbit (c.arg0 p) (c.arg1 p))
  | .rdpix  => .ok (.rdpix (c.arg0 p) (c.arg1 p))
  | .rdbyte => .ok (.rdbyte (c.arg0 p))

/-- The decoder: total on every word and operand object (rule R54). -/
def decode (p : Params) (c : Command) : Except DecodeError Instr :=
  match Op.ofByte c.op with
  | none   => .error (.reservedOpcode c.op)
  | some o => decodeFields p c o

/-! ### The encoder -/

/-- The command word of an operation and its arguments (rule R50). -/
def encodeWord (p : Params) (o : Op) (arg0 arg1 : Nat) : Nat :=
  o.code.toNat + arg0 * 2 ^ 8 + arg1 * 2 ^ (8 + p.argw)

/-- The channel form of a grid of cells under the given tags (rules R20, R55). -/
def encodeGrid {α : Type} (mode : BitVec 2) (f : α → Nat) (g : Grid α) : OperandObject :=
  { kind := 1#2, mode := mode, w := g.w, h := g.h, cells := (g.map f).cols, bytes := [] }

/-- The channel form of an operand object (rules R20, R55, R57). -/
def encodeOperand : Operand → OperandObject
  | .unrecognized       => OperandObject.zero
  | .reservedMode       => { OperandObject.zero with kind := 1#2, mode := 3#2 }
  | .pixBuf (.gray g)   => encodeGrid 0#2 BitVec.toNat g
  | .pixBuf (.bin g)    => encodeGrid 1#2 pixelOfBit g
  | .pixBuf (.other g)  => encodeGrid 2#2 id g
  | .rawBytes bs        => { OperandObject.zero with kind := 2#2, bytes := bs }

/-- The encoder: a command as the channel carries it, a field its format does not use zero. -/
def encode (p : Params) : Instr → Command
  | .quant o      => { word := encodeWord p .quant 0 0, opnd := encodeOperand o }
  | .pack o       => { word := encodeWord p .pack 0 0, opnd := encodeOperand o }
  | .unpack o w h => { word := encodeWord p .unpack w h, opnd := encodeOperand o }
  | .invert       => { word := encodeWord p .invert 0 0, opnd := OperandObject.zero }
  | .ldimg o      => { word := encodeWord p .ldimg 0 0, opnd := encodeOperand o }
  | .ldraw o w h  => { word := encodeWord p .ldraw w h, opnd := encodeOperand o }
  | .rdbit x y    => { word := encodeWord p .rdbit x y, opnd := OperandObject.zero }
  | .rdpix x y    => { word := encodeWord p .rdpix x y, opnd := OperandObject.zero }
  | .rdbyte i     => { word := encodeWord p .rdbyte i 0, opnd := OperandObject.zero }

/-! ### A word of the opcode table -/

/-- The command that a word's `nbits` low bits spell, every bit above them zero. The operand object is not
part of the word's bits (rule R50), so it is the all-zero one, and the parameters are the reference ones
(log entry 11). -/
def tableCommand (nbits w : Nat) : Command := { word := w % 2 ^ nbits, opnd := OperandObject.zero }

/-- The instruction the decoder reads from a word of the opcode table. -/
def decodeTableWord (nbits w : Nat) : Option Instr :=
  match decode Params.reference (tableCommand nbits w) with
  | .ok i    => some i
  | .error _ => none

end Sys2Proof
end

