-- ==== Sys2Proof/Machine/Layout.lean ====
section
/-! DEFINITION. The packed layout: the index functions of rule R8 on exact naturals (rule R7) and the bit and
byte views of a byte sequence (rule R32). -/

namespace Sys2Proof.Machine

/-- `CB(H) = (H + 7) div 8`, the bytes per column (rule R8). -/
def colBytes (h : Nat) : Nat := (h + 7) / 8

/-- `PH(H) = ((H + 7) div 8) * 8`, the pad height (rule R8). -/
def padHeight (h : Nat) : Nat := (h + 7) / 8 * 8

/-- `NB(W, H) = W * PH(H) div 8`, the byte count (rules R8, R35). -/
def numBytes (w h : Nat) : Nat := w * padHeight h / 8

/-- `BIDX(x, y, H) = x * PH(H) + y`, the absolute bit index of a pixel (rule R33). -/
def bitIndex (x y h : Nat) : Nat := x * padHeight h + y

/-- Bit `j` of a byte, `(b >> j) & 1` (rules R8, R32). -/
def byteBit (b : Byte) (j : Nat) : Bit := (b >>> j) &&& 1#8 == 1#8

/-- Bit `k` of a byte sequence: bit `k mod 8` of byte `k div 8`; none beyond its end (rule R32). -/
def seqBit (bs : List Byte) (k : Nat) : Option Bit := bs[k / 8]?.map fun b => byteBit b (k % 8)

/-- A bit as a byte whose bits above bit 0 are zero. -/
def bitByte (b : Bit) : Byte := if b then 1#8 else 0#8

/-- The byte whose bit `j` is `f j`: the sum over `j` in 0..7 of `f j << j` (rule R80). -/
def byteOf (f : Nat → Bit) : Byte :=
  (List.range 8).foldl (fun acc j => acc ||| (bitByte (f j) <<< j)) 0#8

end Sys2Proof.Machine
end

