-- ==== Sys2Proof/Machine/State.lean ====
section
/-! DEFINITION. The state of one BMC block (rule R11), what a step can answer, and the state after reset (rule R25). -/

namespace Sys2Proof.Machine

/-- ORIGIN (rule R14): which representation was primary when the Bitmap was constructed. -/
inductive Origin where
  /-- 0: from an external image; the grid is primary. -/
  | img
  /-- 1: from raw bytes; the bits are primary. -/
  | raw
  deriving DecidableEq, Repr

/-- The two error kinds of the source (rules R141, R142). -/
inductive ErrorKind where
  | typeError
  | valueError
  deriving DecidableEq, Repr

/-- The result object of a command that ends OK (rules R21, R57). -/
inductive Result where
  /-- LDIMG, LDRAW, INVERT: nothing besides the status. -/
  | nothing
  /-- RDBIT, RDPIX. -/
  | bit (b : Bit)
  /-- RDBYTE. -/
  | byte (b : Byte)
  /-- QUANT, UNPACK. -/
  | grid (g : Grid Bit)
  /-- PACK. -/
  | packed (p : PackedBitmap)
  deriving DecidableEq, Repr

/-- The response of a command (rules R22, R140): only an OK response carries a result. -/
inductive Response where
  /-- Status OK, with the result object. -/
  | ok (r : Result)
  /-- Status TypeErrorKind or ValueErrorKind, no result. -/
  | error (k : ErrorKind)
  /-- Status REFUSED, no result. -/
  | refused
  deriving DecidableEq, Repr

/-- The status of a response (rules R22, R56). -/
inductive Status where
  | ok | typeErrorKind | valueErrorKind | refused
  deriving DecidableEq, Repr

/-- A byte store: address and byte pairs. An address that is not listed does not exist (rule R16: "exists for
0 <= i < NB(W, H) and nowhere else"), so an unlisted address reads as no value. -/
abbrev Memory := List Host.Cell

/-- The canonical form of a byte store: addresses strictly rising. (No value stands for an unlisted address,
so no entry can equal what an unlisted address reads as.) -/
abbrev Memory.wf (m : Memory) : Prop := (m.map Prod.fst).Pairwise (· < ·)

/-- The state. The six fields from `w` to `bits` are the architectural state, "exactly" those of rule R11. The
other three are the model's own: the block's parameters (log entry 1), what the host still sends (log entry 6)
and the response channel (log entry 8). -/
structure State where
  /-- The parameters of rule R6; no step changes them. -/
  cfg    : Params
  /-- W, the width (rule R12). -/
  w      : Nat
  /-- H, the height (rule R12). -/
  h      : Nat
  /-- VALID: a Bitmap is bound (rule R13). -/
  valid  : Bool
  /-- ORIGIN (rule R14). -/
  origin : Origin
  /-- GRID, its columns in rising column order (rule R15). -/
  grid   : List (List Bit)
  /-- BITS (rule R16). -/
  bits   : Memory
  /-- What the host still sends, oldest first; a command at the head is the outstanding one (rule R22). -/
  inbox  : List HostEvent
  /-- What the response channel last carried; none since reset (rules R21, R22). -/
  resp   : Option Response
  deriving DecidableEq, Repr

/-- Why a step stops with a fault. Both are raised by a readout only, and only in a state that breaks the
Bitmap invariant of rule R17, which no run from reset reaches. Both are safe: the model stops. -/
inductive Fault where
  /-- RDBIT and RDBYTE: BITS has no byte `i` although `i < NB(W, H)` (rule R16). Safe. -/
  | absentByte (i : Nat)
  /-- RDPIX: GRID has no cell `(x, y)` although `x < W` and `y < H` (rule R15). Safe. -/
  | absentCell (x y : Nat)
  deriving DecidableEq, Repr

/-- Why a step gives no meaning. -/
inductive Refusal where
  /-- Raised by `exec` for an instruction with no meaning in the model. Safe; no instruction is left so. -/
  | notModelled (mnemonic : String)
  /-- Raised by `step` alone, when what the inbox holds beside a command word is no operand object of
  rule R20 (cells missing, a number wider than its field). No host can send it, so no effect is given. Safe. -/
  | malformedOperand
  deriving DecidableEq, Repr

/-- What a step answers. -/
abbrev Answer := Host.Outcome State Fault Refusal

/-- The state after reset (rules R25, R160): VALID = 0, W = 0, H = 0, both stores without a cell or a byte, no
command outstanding. ORIGIN is unspecified there: IMG is a DESIGN CHOICE (log entry 3). -/
def State.reset : State :=
  { cfg := Params.reference, w := 0, h := 0, valid := false, origin := .img, grid := [], bits := [],
    inbox := [], resp := none }

end Sys2Proof.Machine
end

