-- ==== Sys2Proof/Machine/Ops.lean ====
section
/-! DEFINITION. The named operations over the state: the byte store, the response channel, reporting an error,
binding a Bitmap, complementing it, taking an event from the host, and reset. -/

namespace Sys2Proof.Machine

/-! ### The byte store (rules R16, R30) -/

/-- The store that holds exactly these bytes, at addresses from `base` on. -/
def Memory.ofBytesFrom (base : Nat) : List Byte → Memory
  | []      => []
  | b :: bs => (base, b) :: Memory.ofBytesFrom (base + 1) bs

/-- The store whose byte `i` is the sequence's byte `i` (rule R16). -/
def Memory.ofBytes (bs : List Byte) : Memory := Memory.ofBytesFrom 0 bs

/-- The bytes of a store, in address order. -/
def Memory.bytes (m : Memory) : List Byte := m.map Prod.snd

/-- Byte `a` of a store; none where the store has no such byte (rule R38: never wrapped, never answered with 0). -/
def Memory.read : Memory → Nat → Option Byte
  | [], _      => none
  | c :: m, a => if c.1 = a then some c.2 else Memory.read m a

/-- Every byte complemented, `~b = b XOR 0xFF` (rules R8, R112). -/
def Memory.complement (m : Memory) : Memory := m.map fun c => (c.1, c.2 ^^^ 0xFF#8)

/-- Bit `k` of a store, by the bit order of rule R32. -/
def Memory.bit (m : Memory) (k : Nat) : Option Bit := (m.read (k / 8)).map fun b => byteBit b (k % 8)

/-! ### The response channel (rules R21, R22, R140) -/

/-- Put a response on the response channel; nothing else changes. -/
def State.respond (r : Response) (s : State) : State := { s with resp := some r }

/-- End a command with the given response and no state change. -/
def answer (r : Response) (s : State) : Answer := .next (s.respond r)

/-- TAKING AN ERROR (rule R144): the command ends at once with the error's status, nothing of the state is
written, no result is returned, and the block is ready for the next command. There is no vector, no handler, no
saved state, and so nothing to return from (rule R146). -/
def raise (k : ErrorKind) (s : State) : Answer := answer (.error k) s

/-- The REFUSED outcome (rule R147): status REFUSED, no state change, no result. -/
def refuse (s : State) : Answer := answer .refused s

/-- The status of a response (rule R56). -/
def Response.status : Response → Status
  | .ok _              => .ok
  | .error .typeError  => .typeErrorKind
  | .error .valueError => .valueErrorKind
  | .refused           => .refused

/-- The 2-bit status code on the response channel (rule R56). -/
def Status.code : Status → BitVec 2
  | .ok             => 0#2
  | .typeErrorKind  => 1#2
  | .valueErrorKind => 2#2
  | .refused        => 3#2

/-- The tag value of ORIGIN (rule R14). -/
def Origin.code : Origin → BitVec 1
  | .img => 0#1
  | .raw => 1#1

/-! ### The Bitmap (rules R17, R18, R110 to R112) -/

/-- Bind a Bitmap: W, H, GRID, BITS, ORIGIN and VALID are written together, a Bitmap bound before replaced
whole (rules R42, R110, R111). -/
def State.bindBitmap (o : Origin) (g : Grid Bit) (bs : List Byte) (s : State) : State :=
  { s with w := g.w, h := g.h, valid := true, origin := o, grid := g.cols, bits := Memory.ofBytes bs }

/-- Complement GRID and BITS together; W, H, VALID and ORIGIN are unchanged (rule R112). -/
def State.complement (s : State) : State :=
  { s with grid := s.grid.map fun c => c.map fun b => !b, bits := s.bits.complement }

/-- `GRID[x][y]`; none where no such cell exists. -/
def State.cell (s : State) (x y : Nat) : Option Bit := cellOf s.grid x y

/-! ### The command channel (rules R22, R160) -/

/-- The host's next event is taken; the rest is still to come. -/
def State.accept (rest : List HostEvent) (s : State) : State := { s with inbox := rest }

/-- The host's next event is this command. -/
def State.issue (c : Command) (s : State) : State := { s with inbox := .command c :: s.inbox }

/-- Reset (rules R25, R160): every field as in `State.reset`, but the parameters, which are the block's build,
and what the host sends after it. -/
def State.afterReset (rest : List HostEvent) (s : State) : State :=
  { State.reset with cfg := s.cfg, inbox := rest }

end Sys2Proof.Machine
end

