-- ==== Sys2Proof/Machine/Channel.lean ====
section
/-! DEFINITION. What the block does with what the decoder rejects. -/

namespace Sys2Proof.Machine

/-- A command the decoder rejects: a reserved opcode is answered REFUSED (rules R54, R147); what is no operand
object of rule R20 is given no meaning (log entry 10). -/
def reject (e : DecodeError) (s : State) : Answer :=
  match e with
  | .reservedOpcode _ => refuse s
  | .malformedOperand => .refused .malformedOperand

end Sys2Proof.Machine
end

