-- ==== Sys2Proof/Machine/Codec.lean ====
section
/-! DEFINITION. The three pure functions of the codec: `quantize` (rule R70), `pack` (rule R80) and
`unpack` (rule R90). None of them reads or writes the state. -/

namespace Sys2Proof.Machine

/-- The quantization threshold, a constant of the source (rules R5, R71). -/
def thresh : Nat := 32

/-- `q(GRAY, v)`: black below 32, white from 32 on (rule R71). -/
def quantGray (v : Byte) : Bit := decide (thresh ≤ v.toNat)

/-- `q(BIN, b) = b` (rule R72). -/
def quantBin (b : Bit) : Bit := b

/-- `q(OTHER, c) = q(GRAY, toGray(c))` (rule R73). -/
def quantOther (c : Nat) : Bit := quantGray (Config.toGray c)

/-- `quantize(p)`: the binary grid of identical dimensions, cell by cell (rule R70). -/
def quantize : PixBuf → Grid Bit
  | .gray g  => g.map quantGray
  | .bin g   => g.map quantBin
  | .other g => g.map quantOther

/-- Byte `k` of column `x`: rows `8k` to `8k + 7`, the top row in bit 0, rows from H on zero (rule R80). -/
def packByte (g : Grid Bit) (x k : Nat) : Byte :=
  byteOf fun j => decide (8 * k + j < g.h) && g.white x (8 * k + j)

/-- `pack(G)`: column records of CB(H) bytes, column 0 first (rules R31, R80). -/
def pack (g : Grid Bit) : PackedBitmap :=
  { width := g.w, height := g.h,
    bits := (List.range g.w).flatMap fun x => (List.range (colBytes g.h)).map fun k => packByte g x k }

/-- `unpack(B, w, h)`: cell `(x, y)` is bit `x * PH(h) + y` of B (rule R90). Its callers have made the length
check of rule R91, so no bit is read beyond the end of B. -/
def unpack (bs : List Byte) (w h : Nat) : Grid Bit :=
  Grid.ofFn w h fun x y => seqBit bs (bitIndex x y h) == some true

end Sys2Proof.Machine
end

