-- ==== Sys2Proof/Machine/Operands.lean ====
section
/-! DEFINITION. Every check a command makes of its operands, in the order of rule R145: each answers what the
command works on, or the response the command ends with. -/

namespace Sys2Proof.Machine

/-- The width of a pixel buffer, `opnd.W` (rule R20). -/
def pixWidth : PixBuf → Nat
  | .gray g  => g.w
  | .bin g   => g.w
  | .other g => g.w

/-- The height of a pixel buffer, `opnd.H` (rule R20). -/
def pixHeight : PixBuf → Nat
  | .gray g  => g.h
  | .bin g   => g.h
  | .other g => g.h

/-- Whether a zero dimension raises ValueErrorKind here (decision D9, rule R142 cause (c)). -/
def zeroDim (p : Params) (w h : Nat) : Bool := p.zeroDimFault && (w == 0 || h == 0)

/-- The operand of QUANT and LDIMG: a recognized pixel buffer, else TypeErrorKind; then the zero dimensions
(rules R75, R110). -/
def pixOperand (p : Params) : Operand → Except Response PixBuf
  | .pixBuf b =>
    if zeroDim p (pixWidth b) (pixHeight b) then .error (.error .valueError) else .ok b
  | .unrecognized => .error (.error .typeError)
  | .reservedMode => .error (.error .typeError)
  | .rawBytes _   => .error (.error .typeError)

/-- The operand of PACK: a BIN pixel buffer, else REFUSED; then the zero dimensions (rule R84). -/
def binOperand (p : Params) : Operand → Except Response (Grid Bit)
  | .pixBuf (.bin g) => if zeroDim p g.w g.h then .error (.error .valueError) else .ok g
  | .pixBuf (.gray _)  => .error .refused
  | .pixBuf (.other _) => .error .refused
  | .unrecognized      => .error .refused
  | .reservedMode      => .error .refused
  | .rawBytes _        => .error .refused

/-- The raw bytes of UNPACK and LDRAW, once the arguments are known to fit: raw bytes, else TypeErrorKind; then
the zero dimensions; then the length, "raw input too short" (rules R91, R97). -/
def rawBytesFor (p : Params) (w h : Nat) : Operand → Except Response (List Byte)
  | .rawBytes bs =>
    if zeroDim p w h then .error (.error .valueError)
    else if bs.length < Machine.numBytes w h then .error (.error .valueError)
    else .ok bs
  | .unrecognized => .error (.error .typeError)
  | .reservedMode => .error (.error .typeError)
  | .pixBuf _     => .error (.error .typeError)

/-- The operands of UNPACK and LDRAW: a width or height that does not fit DIMW bits is REFUSED first
(rules R52, R94, R111). -/
def rawOperand (p : Params) (o : Operand) (w h : Nat) : Except Response (List Byte) :=
  if p.fitsDim w && p.fitsDim h then rawBytesFor p w h o else .error .refused

/-- The pixel a readout addresses: VALID first, then the range; both REFUSED (rules R116, R128). -/
def pixelInRange (s : State) (x y : Nat) : Except Response (Nat × Nat) :=
  if s.valid then
    if x < s.w ∧ y < s.h then .ok (x, y) else .error .refused
  else .error .refused

/-- The byte index a readout addresses: VALID first, then the range; both REFUSED (rules R116, R127, R128). -/
def byteInRange (s : State) (i : Nat) : Except Response Nat :=
  if s.valid then
    if i < numBytes s.w s.h then .ok i else .error .refused
  else .error .refused

end Sys2Proof.Machine
end

