-- ==== Sys2Proof/Machine/Aggregate.lean ====
section
/-! DEFINITION. The meanings of the Bitmap aggregate family, INVERT, LDIMG and LDRAW
(spec/44_bitmap_invert.md): the only commands that write the architectural state. -/

namespace Sys2Proof.Machine

/-- INVERT (rule R112): both stores are complemented in one transition; REFUSED with no Bitmap bound (rule R116). -/
def execInvert (s : State) : Answer :=
  if s.valid then answer (.ok .nothing) s.complement else refuse s

/-- LDIMG opnd (rule R110): quantize, then pack; the grid is primary, the bits derived. -/
def execLdimg (o : Operand) (s : State) : Answer :=
  match pixOperand s.cfg o with
  | .ok b    => answer (.ok .nothing) (s.bindBitmap .img (quantize b) (pack (quantize b)).bits)
  | .error r => answer r s

/-- LDRAW opnd, w, h (rule R111): the bits are primary, the first NB(w, h) bytes verbatim; the grid is unpacked
from all the operand's bytes. -/
def execLdraw (o : Operand) (w h : Nat) (s : State) : Answer :=
  match rawOperand s.cfg o w h with
  | .ok bs   => answer (.ok .nothing) (s.bindBitmap .raw (unpack bs w h) (bs.take (numBytes w h)))
  | .error r => answer r s

end Sys2Proof.Machine
end

