-- ==== Sys2Proof/Machine/Packer.lean ====
section
/-! DEFINITION. The meaning of PACK (spec/41_packer.md). -/

namespace Sys2Proof.Machine

/-- PACK opnd (rule R83): the PackedBitmap is the result; no state is written. -/
def execPack (o : Operand) (s : State) : Answer :=
  match binOperand s.cfg o with
  | .ok g    => answer (.ok (.packed (pack g))) s
  | .error r => answer r s

end Sys2Proof.Machine
end

