-- ==== Sys2Proof/Machine/Quantizer.lean ====
section
/-! DEFINITION. The meaning of QUANT (spec/40_quantizer.md). -/

namespace Sys2Proof.Machine

/-- QUANT opnd (rule R74): the quantized grid is the result; no state is written. -/
def execQuant (o : Operand) (s : State) : Answer :=
  match pixOperand s.cfg o with
  | .ok b    => answer (.ok (.grid (quantize b))) s
  | .error r => answer r s

end Sys2Proof.Machine
end

