-- ==== Sys2Proof/Machine/Readout.lean ====
section
/-! DEFINITION. The meanings of the readout family, RDBIT, RDPIX and RDBYTE (spec/45_readout.md). -/

namespace Sys2Proof.Machine

/-- RDBIT x, y (rule R125): bit `x * PH(H) + y` of BITS. -/
def execRdbit (x y : Nat) (s : State) : Answer :=
  match pixelInRange s x y with
  | .error r     => answer r s
  | .ok (cx, cy) =>
    match s.bits.bit (bitIndex cx cy s.h) with
    | some b => answer (.ok (.bit b)) s
    | none   => .fault (.absentByte (bitIndex cx cy s.h / 8))

/-- RDPIX x, y (rule R126): cell `(x, y)` of GRID. -/
def execRdpix (x y : Nat) (s : State) : Answer :=
  match pixelInRange s x y with
  | .error r     => answer r s
  | .ok (cx, cy) =>
    match s.cell cx cy with
    | some b => answer (.ok (.bit b)) s
    | none   => .fault (.absentCell cx cy)

/-- RDBYTE i (rule R127): byte `i` of BITS as stored, padding bits included. -/
def execRdbyte (i : Nat) (s : State) : Answer :=
  match byteInRange s i with
  | .error r => answer r s
  | .ok k    =>
    match s.bits.read k with
    | some b => answer (.ok (.byte b)) s
    | none   => .fault (.absentByte k)

end Sys2Proof.Machine
end

