-- ==== Sys2Proof/Machine/Unpacker.lean ====
section
/-! DEFINITION. The meaning of UNPACK (spec/42_unpacker.md). -/

namespace Sys2Proof.Machine

/-- UNPACK opnd, w, h (rule R94): the unpacked grid is the result; no state is written. -/
def execUnpack (o : Operand) (w h : Nat) (s : State) : Answer :=
  match rawOperand s.cfg o w h with
  | .ok bs   => answer (.ok (.grid (unpack bs w h))) s
  | .error r => answer r s

end Sys2Proof.Machine
end

