-- ==== Sys2Proof/Machine/Dispatch.lean ====
section
/-! DEFINITION. One arm per command of the opcode map (rule R53). -/

namespace Sys2Proof.Machine

/-- What a command does to the state: one call of its meaning. -/
def exec (i : Instr) (s : State) : Host.Outcome State Fault Refusal :=
  match i with
  | .quant o => Sys2Proof.Machine.execQuant o s
  | .pack o => Sys2Proof.Machine.execPack o s
  | .unpack o w h => Sys2Proof.Machine.execUnpack o w h s
  | .invert => Sys2Proof.Machine.execInvert s
  | .ldimg o => Sys2Proof.Machine.execLdimg o s
  | .ldraw o w h => Sys2Proof.Machine.execLdraw o w h s
  | .rdbit x y => Sys2Proof.Machine.execRdbit x y s
  | .rdpix x y => Sys2Proof.Machine.execRdpix x y s
  | .rdbyte k => Sys2Proof.Machine.execRdbyte k s

end Sys2Proof.Machine
end

