-- ==== Sys2Proof/Machine/Step.lean ====
section
/-! DEFINITION. One step of the block: it takes the host's next event and answers it, one command one atomic
transition (rules R2, R22, R42). -/

namespace Sys2Proof.Machine

/-- One step. With nothing from the host the block waits, and the state stays as it is (log entry 7). The
platform's reset puts the block in the state after reset (rule R160). A command is decoded and executed, or
answered REFUSED when its opcode is reserved (rule R54). -/
def step (s : State) : Host.Outcome State Fault Refusal :=
  match s.inbox with
  | []                => .next s
  | .reset :: rest     => .next (s.afterReset rest)
  | .command c :: rest =>
    match decode s.cfg c with
    | .ok i    => exec i (s.accept rest)
    | .error e => reject e (s.accept rest)

/-- The state with the command of a word of the opcode table as the host's next event (log entries 6, 11). -/
def State.withFetchWord (s : State) (nbits w : Nat) : State := s.issue (tableCommand nbits w)

end Sys2Proof.Machine
end

