-- ==== Sys2Proof/Machine/Serializer.lean ====
section
/-! DEFINITION. The two datapaths of rules R85 and R95, one tick a bit: the bit serializer with per-column padding
and the bit deserializer. Their registers are the hidden state of rule R24, set up at a command's start and dead at
its end, so no field of State holds them (log entry 14). -/

namespace Sys2Proof.Machine

/-- How the assembly register takes a bit (rule R85): placed at its position, or shifted in at the top end. -/
inductive SrForm where
  | place
  | shift
  deriving DecidableEq, Repr

/-- The registers of the serializer (rule R85) and the bytes emitted so far, first emitted first. -/
structure Serializer where
  /-- Column counter. -/
  xc  : Nat
  /-- Byte-in-column counter. -/
  kc  : Nat
  /-- Bit counter, 0 to 7. -/
  jc  : Nat
  /-- Assembly register. -/
  sr  : Byte
  /-- The emitted bytes. -/
  out : List Byte
  deriving DecidableEq, Repr

/-- The serializer at the start of a command. -/
def serializerStart : Serializer := { xc := 0, kc := 0, jc := 0, sr := 0#8, out := [] }

/-- The bit appended at this tick: the pixel, or zero in the padding rows (rules R81, R85). -/
def serialBit (g : Grid Bit) (r : Serializer) : Bit :=
  decide (8 * r.kc + r.jc < g.h) && g.white r.xc (8 * r.kc + r.jc)

/-- The assembly register after taking bit number `j` of a byte: `SR | (b << jc)`, or
`(b << 7) | (SR >> 1)` (rule R85). -/
def takeBit (f : SrForm) (b : Bit) (j : Nat) (sr : Byte) : Byte :=
  match f with
  | .place => sr ||| (bitByte b <<< j)
  | .shift => (bitByte b <<< 7) ||| (sr >>> 1)

/-- The counters move to the next byte: the next 8-row block of the column, or the next column. -/
def nextByte (h : Nat) (r : Serializer) : Serializer :=
  if r.kc + 1 < colBytes h then { r with kc := r.kc + 1, jc := 0, sr := 0#8 }
  else { r with xc := r.xc + 1, kc := 0, jc := 0, sr := 0#8 }

/-- One bit step: a bit is taken, and with the eighth the byte is emitted (rule R85). -/
def serializerTick (f : SrForm) (g : Grid Bit) (r : Serializer) : Serializer :=
  if r.jc < 7 then { r with jc := r.jc + 1, sr := takeBit f (serialBit g r) r.jc r.sr }
  else nextByte g.h { r with out := r.out ++ [takeBit f (serialBit g r) r.jc r.sr] }

/-- `n` bit steps. -/
def serializerRun (f : SrForm) (g : Grid Bit) : Nat → Serializer → Serializer
  | 0, r     => r
  | n + 1, r => serializerRun f g n (serializerTick f g r)

/-- The registers of the deserializer (rule R95), the cells of the column under way, and the finished columns. -/
structure Deserializer where
  /-- Column counter. -/
  xc   : Nat
  /-- Byte-in-column counter. -/
  kc   : Nat
  /-- Bit counter, 0 to 7. -/
  jc   : Nat
  /-- The byte being consumed. -/
  sr   : Byte
  /-- Cells of the column under way, row 0 first. -/
  col  : List Bit
  /-- Finished columns, column 0 first. -/
  cols : List (List Bit)
  deriving DecidableEq, Repr

/-- The deserializer at the start of a command. -/
def deserializerStart : Deserializer := { xc := 0, kc := 0, jc := 0, sr := 0#8, col := [], cols := [] }

/-- The byte consumed at this tick: byte `xc * CB(h) + kc` is loaded with bit 0, and held for the other seven. -/
def consumed (bs : List Byte) (h : Nat) (r : Deserializer) : Byte :=
  if r.jc = 0 then bs.getD (r.xc * colBytes h + r.kc) 0#8 else r.sr

/-- The column under way after this tick: a bit of a row from h on is dropped (rule R95). -/
def columnAfter (bs : List Byte) (h : Nat) (r : Deserializer) : List Bit :=
  if 8 * r.kc + r.jc < h then r.col ++ [byteBit (consumed bs h r) r.jc] else r.col

/-- One bit step of the deserializer (rule R95). -/
def deserializerTick (bs : List Byte) (h : Nat) (r : Deserializer) : Deserializer :=
  if r.jc < 7 then { r with jc := r.jc + 1, sr := consumed bs h r, col := columnAfter bs h r }
  else if r.kc + 1 < colBytes h then
    { r with kc := r.kc + 1, jc := 0, sr := consumed bs h r, col := columnAfter bs h r }
  else
    { r with xc := r.xc + 1, kc := 0, jc := 0, sr := consumed bs h r, col := [],
             cols := r.cols ++ [columnAfter bs h r] }

/-- `n` bit steps. -/
def deserializerRun (bs : List Byte) (h : Nat) : Nat → Deserializer → Deserializer
  | 0, r     => r
  | n + 1, r => deserializerRun bs h n (deserializerTick bs h r)

end Sys2Proof.Machine
end

