-- ==== Sys2Proof/Machine/Renderer.lean ====
section
/-! DEFINITION. The Renderer's two host-side reference functions (spec/43_renderer_host.md). They are no commands
of the block: plain functions beside the machine, over what the readout commands return (rule R100). -/

namespace Sys2Proof.Machine

/-- What the Renderer reads: a Bitmap (rules R17, R101), its grid as columns. -/
structure Bitmap where
  w    : Nat
  h    : Nat
  grid : List (List Bit)
  bits : List Byte
  deriving DecidableEq, Repr

/-- The Bitmap that the block holds: none while VALID = 0. VALID stands for a Bitmap's existence (rule R13), and while
it is 0 no rule may read GRID or BITS (rule R25), so the Renderer is handed nothing (log entry 17). -/
def State.bitmap (s : State) : Option Bitmap :=
  if s.valid then some { w := s.w, h := s.h, grid := s.grid, bits := s.bits.bytes } else none

/-- Why a rendering fails. -/
inductive RenderError where
  /-- ValueErrorKind (rules R104, R105). -/
  | valueErrorKind
  /-- The source is no Bitmap: a store lacks a cell or a byte that its dimensions promise, and the spec gives
  `renderAscii` a Bitmap only (log entry 15). -/
  | notABitmap
  deriving DecidableEq, Repr

/-- Every pixel has its cell and its byte: W columns of H cells, and NB(W, H) bytes (rule R17 (a)). -/
def Bitmap.shapeOk (b : Bitmap) : Bool :=
  b.grid.length == b.w && b.grid.all (fun c => c.length == b.h) && b.bits.length == numBytes b.w b.h

/-- Whether pixel `(x, y)` is set: by the packed address formula, or in the pixel grid (rule R101). -/
def Bitmap.pixel (b : Bitmap) (fromPacked : Bool) (x y : Nat) : Bool :=
  if fromPacked then seqBit b.bits (bitIndex x y b.h) == some true else cellOf b.grid x y == some true

/-- One row of `renderAscii`: W characters and a newline (rule R101). -/
def asciiRow (b : Bitmap) (fromPacked : Bool) (y : Nat) : Text :=
  ((List.range b.w).map fun x => if b.pixel fromPacked x y then '#' else ' ') ++ ['\n']

/-- `renderAscii(source, fromPacked)` (rules R101, R105): rows outer, every row newline-terminated. -/
def renderAscii (p : Params) (b : Bitmap) (fromPacked : Bool) : Except RenderError Text :=
  if zeroDim p b.w b.h then .error .valueErrorKind
  else if b.shapeOk then .ok ((List.range b.h).flatMap fun y => asciiRow b fromPacked y)
  else .error .notABitmap

/-- The upper-case hexadecimal digits. -/
def hexDigits : List Char := ['0', '1', '2', '3', '4', '5', '6', '7', '8', '9', 'A', 'B', 'C', 'D', 'E', 'F']

/-- `"0x" ++ HEX2(b)`: two upper-case digits, the high one first (rule R103). -/
def hexByte (b : Byte) : Text :=
  ['0', 'x', hexDigits.getD (b.toNat / 16) '0', hexDigits.getD (b.toNat % 16) '0']

/-- `join(sep, L)`: `sep` between consecutive elements and nowhere else (rule R103). -/
def joinText (sep : Text) : List Text → Text
  | []           => []
  | [t]          => t
  | t :: u :: ts => t ++ sep ++ joinText sep (u :: ts)

/-- One line of `renderCArray`: the caller's prefix, then the chunk's byte literals (rule R103). -/
def cArrayLine (lead : Text) (chunk : List Byte) : Text :=
  lead ++ joinText [',', ' '] (chunk.map hexByte)

/-- The chunks of at most `n` bytes, all full but possibly the last (rule R103). -/
def chunksOf (n : Nat) (bs : List Byte) : List (List Byte) :=
  (List.range ((bs.length + n - 1) / n)).map fun t => (bs.drop (t * n)).take n

/-- `renderCArray(bytes, prefix, lineWidth)` (rules R103, R104). -/
def renderCArray (bs : List Byte) (lead : Text) (lineWidth : Int) : Except RenderError Text :=
  if lineWidth < 1 then .error .valueErrorKind
  else .ok (joinText [',', '\n'] ((chunksOf lineWidth.toNat bs).map (cArrayLine lead)))

end Sys2Proof.Machine
end

