-- ==== Sys2Proof/Safety.lean ====
section
/-! DEFINITION. What counts as a good state and a good run, in the terms the statements use: the Bitmap invariant
(rule R17), the outcome table (rules R143, R145), and what two Bitmaps share (rule R167). -/

namespace Sys2Proof.Machine

/-! ### The invariant of the state -/

/-- The dimension registers: each fits DIMW bits (rule R12); with no Bitmap bound both are 0 (rules R13, R25); with
ZERO_DIM_FAULT a bound Bitmap has neither 0 (rule R12). -/
abbrev State.DimsOk (s : State) : Prop :=
  s.w < 2 ^ s.cfg.dimw ∧ s.h < 2 ^ s.cfg.dimw ∧ (s.valid = false → s.w = 0 ∧ s.h = 0) ∧
    (s.valid = true → s.cfg.zeroDimFault = true → 1 ≤ s.w ∧ 1 ≤ s.h)

/-- The two stores hold exactly what the dimensions say: W columns of H cells (rule R15), and bytes 0 to
NB(W, H) - 1 (rules R16, R17 (a)). -/
abbrev State.StoresOk (s : State) : Prop :=
  s.grid.length = s.w ∧ (∀ col ∈ s.grid, col.length = s.h) ∧
    s.bits.map Prod.fst = List.range (numBytes s.w s.h)

/-- The two stores agree on every pixel (rule R17 (b)). -/
abbrev State.Agrees (s : State) : Prop :=
  ∀ x, x < s.w → ∀ y, y < s.h → s.bits.bit (bitIndex x y s.h) = s.cell x y

/-- The invariant of every reachable state. -/
abbrev State.Inv (s : State) : Prop := s.cfg.Ok ∧ s.DimsOk ∧ s.StoresOk ∧ s.Agrees

/-! ### The outcome table (rules R143, R145) -/

/-- A recognized pixel buffer. -/
def isPixBuf : Operand → Bool
  | .pixBuf _ => true
  | _         => false

/-- A BIN pixel buffer. -/
def isBinBuf : Operand → Bool
  | .pixBuf (.bin _) => true
  | _                => false

/-- A raw byte sequence. -/
def isRawBytes : Operand → Bool
  | .rawBytes _ => true
  | _           => false

/-- The dimensions of an operand, 0 by 0 where it has none. -/
def operandDims : Operand → Nat × Nat
  | .pixBuf (.gray g)  => (g.w, g.h)
  | .pixBuf (.bin g)   => (g.w, g.h)
  | .pixBuf (.other g) => (g.w, g.h)
  | _                  => (0, 0)

/-- LEN of an operand, 0 where it has none. -/
def operandLen : Operand → Nat
  | .rawBytes bs => bs.length
  | _            => 0

/-- Priorities (2) and (3) of rule R145: an argument that does not fit, PACK's precondition, VALID = 0. -/
def refusedEarly (s : State) : Instr → Bool
  | .quant _      => false
  | .pack o       => !isBinBuf o
  | .unpack _ w h => decide (2 ^ s.cfg.dimw ≤ w ∨ 2 ^ s.cfg.dimw ≤ h)
  | .invert       => !s.valid
  | .ldimg _      => false
  | .ldraw _ w h  => decide (2 ^ s.cfg.dimw ≤ w ∨ 2 ^ s.cfg.dimw ≤ h)
  | .rdbit _ _    => !s.valid
  | .rdpix _ _    => !s.valid
  | .rdbyte _     => !s.valid

/-- Priority (4) of rule R145: the causes of TypeErrorKind (rule R141). -/
def typeErrorCause : Instr → Bool
  | .quant o      => !isPixBuf o
  | .ldimg o      => !isPixBuf o
  | .unpack o _ _ => !isRawBytes o
  | .ldraw o _ _  => !isRawBytes o
  | .pack _       => false
  | .invert       => false
  | .rdbit _ _    => false
  | .rdpix _ _    => false
  | .rdbyte _     => false

/-- Priorities (5) and (6) of rule R145: the causes of ValueErrorKind (rule R142 (a) and (c)). -/
def valueErrorCause (p : Params) : Instr → Bool
  | .quant o      => p.zeroDimFault && ((operandDims o).1 == 0 || (operandDims o).2 == 0)
  | .pack o       => p.zeroDimFault && ((operandDims o).1 == 0 || (operandDims o).2 == 0)
  | .ldimg o      => p.zeroDimFault && ((operandDims o).1 == 0 || (operandDims o).2 == 0)
  | .unpack o w h => (p.zeroDimFault && (w == 0 || h == 0)) || decide (operandLen o < w * colBytes h)
  | .ldraw o w h  => (p.zeroDimFault && (w == 0 || h == 0)) || decide (operandLen o < w * colBytes h)
  | .invert       => false
  | .rdbit _ _    => false
  | .rdpix _ _    => false
  | .rdbyte _     => false

/-- Priority (7) of rule R145: a readout index out of range (rule R128). -/
def indexOutOfRange (s : State) : Instr → Bool
  | .rdbit x y    => decide (s.w ≤ x ∨ s.h ≤ y)
  | .rdpix x y    => decide (s.w ≤ x ∨ s.h ≤ y)
  | .rdbyte i     => decide (s.w * colBytes s.h ≤ i)
  | .quant _      => false
  | .pack _       => false
  | .unpack _ _ _ => false
  | .invert       => false
  | .ldimg _      => false
  | .ldraw _ _ _  => false

/-- The status of a command's response: the first cause in the order of rule R145 decides. -/
def expectedStatus (s : State) (i : Instr) : Status :=
  if refusedEarly s i then .refused
  else if typeErrorCause i then .typeErrorKind
  else if valueErrorCause s.cfg i then .valueErrorKind
  else if indexOutOfRange s i then .refused
  else .ok

/-! ### What stays, and what two Bitmaps share -/

/-- The architectural state of rule R11 is the same in both. -/
abbrev SameBitmap (s t : State) : Prop :=
  t.w = s.w ∧ t.h = s.h ∧ t.valid = s.valid ∧ t.origin = s.origin ∧ t.grid = s.grid ∧ t.bits = s.bits

/-- The model's own fields besides the response are the same in both. -/
abbrev SameChannel (s t : State) : Prop := t.cfg = s.cfg ∧ t.inbox = s.inbox

/-- Equality of Bitmaps (rule R167): equal W, H and visible region; padding bits are not compared. -/
def SameVisible (s t : State) : Prop :=
  t.w = s.w ∧ t.h = s.h ∧ ∀ x, x < s.w → ∀ y, y < s.h →
    t.cell x y = s.cell x y ∧ t.bits.bit (bitIndex x y s.h) = s.bits.bit (bitIndex x y s.h)

/-- Bit index `k` of a Bitmap of height `h` is a padding bit: its row is at least `h` (rule R34). -/
abbrev IsPadding (h k : Nat) : Prop := h ≤ k % padHeight h

/-- What a cell of a pixel buffer quantizes to (rules R71 to R73); none where the buffer has no such cell. -/
def quantizedCell : PixBuf → Nat → Nat → Option Bit
  | .gray g, x, y  => (g.cell x y).map fun v => decide (32 ≤ v.toNat)
  | .bin g, x, y   => g.cell x y
  | .other g, x, y => (g.cell x y).map fun c => decide (32 ≤ (Config.toGray c).toNat)

end Sys2Proof.Machine
end

