-- ==== Sys2Proof/Certificates/Slice0/Obligations.lean ====
section
/-! DEFINITION. The statements for the provers. Each docstring names the rule it formalises. -/

open Sys2Proof Sys2Proof.Machine

/-! ### Encoding (spec/30_encoding.md) -/

/-- One word of each command, as spec/95_test_vectors.md writes it out for DIMW = 16 (rules R50, R53), decodes to that
command. The operand objects beside the words are this statement's own, their tags those of rule R55. That the channel
carries cells as numbers, a BIN cell in its 8-bit form, is the model's choice (log entry 10): the PACK clause rests on
it, and reads 255 as white and 0 as black by rule R57. -/
def Obligations.SampleWordsDecode : Prop :=
  decode Params.reference ⟨0x000000000000000001, ⟨1#2, 2#2, 1, 1, [[70000]], []⟩⟩ =
      .ok (.quant (.pixBuf (.other ⟨1, 1, [[70000]]⟩))) ∧
  decode Params.reference ⟨0x000000000000000002, ⟨1#2, 1#2, 1, 2, [[255, 0]], []⟩⟩ =
      .ok (.pack (.pixBuf (.bin ⟨1, 2, [[true, false]]⟩))) ∧
  decode Params.reference ⟨0x000000030000000403, ⟨2#2, 0#2, 0, 0, [], [0x05#8]⟩⟩ =
      .ok (.unpack (.rawBytes [0x05#8]) 4 3) ∧
  decode Params.reference ⟨0x000000000000000004, OperandObject.zero⟩ = .ok .invert ∧
  decode Params.reference ⟨0x000000000000000005, ⟨1#2, 0#2, 2, 1, [[31], [32]], []⟩⟩ =
      .ok (.ldimg (.pixBuf (.gray ⟨2, 1, [[31#8], [32#8]]⟩))) ∧
  decode Params.reference ⟨0x000000090000000206, ⟨2#2, 0#2, 0, 0, [], [0xA5#8]⟩⟩ =
      .ok (.ldraw (.rawBytes [0xA5#8]) 2 9) ∧
  decode Params.reference ⟨0x000000080000000107, OperandObject.zero⟩ = .ok (.rdbit 1 8) ∧
  decode Params.reference ⟨0x000000080000000108, OperandObject.zero⟩ = .ok (.rdpix 1 8) ∧
  decode Params.reference ⟨0x000000000000000309, OperandObject.zero⟩ = .ok (.rdbyte 3)

/-- Decoding an encoded command gives the command back, for every well-formed command of every block
(rules R50, R53, R55, R57). The form of the cells on the channel, a BIN cell as an 8-bit value, is the model's choice
(log entry 10). -/
def Obligations.DecodeOfEncodeIsTheCommand : Prop :=
  ∀ (p : Params) (i : Instr), i.wellFormed p = true → decode p (encode p i) = .ok i

/-- Whatever the decoder accepts is well-formed: grids have their cells, numbers fit their fields (rules R20, R50). That
the decoder rejects what is no operand object of R20 is the model's choice (log entry 10). -/
def Obligations.DecodedCommandsAreWellFormed : Prop :=
  ∀ (p : Params) (c : Command) (i : Instr), decode p c = .ok i → i.wellFormed p = true

/-- A field the format does not use is ignored (rule R51): two commands of one operation that agree on the fields
its format uses decode alike. -/
def Obligations.UnusedFieldsAreIgnored : Prop :=
  ∀ (p : Params) (a b : Command) (o : Op), Op.ofByte a.op = some o → Op.ofByte b.op = some o →
    (match o with
      | .invert => True
      | .quant => a.opnd = b.opnd
      | .pack => a.opnd = b.opnd
      | .ldimg => a.opnd = b.opnd
      | .unpack => a.opnd = b.opnd ∧ a.arg0 p = b.arg0 p ∧ a.arg1 p = b.arg1 p
      | .ldraw => a.opnd = b.opnd ∧ a.arg0 p = b.arg0 p ∧ a.arg1 p = b.arg1 p
      | .rdbit => a.arg0 p = b.arg0 p ∧ a.arg1 p = b.arg1 p
      | .rdpix => a.arg0 p = b.arg0 p ∧ a.arg1 p = b.arg1 p
      | .rdbyte => a.arg0 p = b.arg0 p) →
    decode p a = decode p b

/-- The reserved opcodes are exactly 0x00 and 0x0A to 0xFF, and one is refused: status REFUSED, no state change,
no result (rule R54). -/
def Obligations.ReservedOpcodesAreRefused : Prop :=
  (∀ b : Byte, Op.ofByte b = none ↔ b.toNat = 0 ∨ 0x0A ≤ b.toNat) ∧
  ∀ (s : State) (c : Command) (rest : List HostEvent), s.inbox = .command c :: rest →
    (c.op.toNat = 0 ∨ 0x0A ≤ c.op.toNat) →
    step s = .next { s with inbox := rest, resp := some .refused }

/-- The operand tags (rule R55): KIND 0 and 3 are unrecognized, KIND 2 is raw bytes, KIND 1 a pixel buffer by its
MODE, MODE 3 reserved; and a PIXBUF with MODE 3 raises TypeErrorKind where a PIXBUF is required. The form of the cells on
the channel is the model's choice (log entry 10): numbers, for a GRAY or BIN buffer 8-bit values. R20 gives a BIN cell one
bit, and the MODE 1 clause reads its 8-bit form as rule R57 says, every nonzero value white. -/
def Obligations.OperandTagsDecode : Prop :=
  (∀ (p : Params) (o : OperandObject), o.kind = 0#2 ∨ o.kind = 3#2 → decodeOperand p o = .ok .unrecognized) ∧
  (∀ (p : Params) (o : OperandObject), o.kind = 2#2 → o.bytes.length < 2 ^ p.lenw →
    decodeOperand p o = .ok (.rawBytes o.bytes)) ∧
  (∀ (p : Params) (o : OperandObject), o.kind = 1#2 → o.mode = 3#2 → decodeOperand p o = .ok .reservedMode) ∧
  (∀ (p : Params) (o : OperandObject), o.kind = 1#2 → o.rawGrid.wellFormed p = true → o.cells8 = true →
    (o.mode = 0#2 → decodeOperand p o = .ok (.pixBuf (.gray (o.rawGrid.map (BitVec.ofNat 8))))) ∧
    (o.mode = 1#2 → decodeOperand p o = .ok (.pixBuf (.bin (o.rawGrid.map fun n => decide (n ≠ 0)))))) ∧
  (∀ (p : Params) (o : OperandObject), o.kind = 1#2 → o.rawGrid.wellFormed p = true → o.mode = 2#2 →
    decodeOperand p o = .ok (.pixBuf (.other o.rawGrid))) ∧
  (∀ s : State, exec (.quant .reservedMode) s = .next { s with resp := some (.error .typeError) } ∧
    exec (.ldimg .reservedMode) s = .next { s with resp := some (.error .typeError) })

/-- The status codes (rule R56): 0 OK, 1 TypeErrorKind, 2 ValueErrorKind, 3 REFUSED. -/
def Obligations.StatusCodesAreTheTables : Prop :=
  (∀ r, (Response.ok r).status.code = 0#2) ∧ (Response.error .typeError).status.code = 1#2 ∧
    (Response.error .valueError).status.code = 2#2 ∧ Response.refused.status.code = 3#2

/-! ### The step -/

/-- A step runs the decoded command: when the command at the head of the inbox decodes to `i`, the step is `exec i`
on the state with that command taken from the inbox (rules R22, R42). -/
def Obligations.StepRunsTheDecodedCommand : Prop :=
  ∀ (s : State) (c : Command) (rest : List HostEvent) (i : Instr), s.inbox = .command c :: rest →
    decode s.cfg c = .ok i → step s = exec i { s with inbox := rest }

/-- With nothing from the host the block waits, its state unchanged. The model's choice (log entry 7). -/
def Obligations.EmptyInboxStepsToItself : Prop :=
  ∀ s : State, s.inbox = [] → step s = .next s

/-- The platform's reset leaves VALID = 0, W = 0, H = 0 and no cell or byte that could be addressed; the block's
parameters stay (rules R25, R160). That reset is an event of the inbox is the model's choice (log entries 6, 13), and that
both stores are empty then is deduced from R25 (log entry 4). -/
def Obligations.ResetEventUnbindsTheBitmap : Prop :=
  ∀ (s : State) (rest : List HostEvent), s.inbox = .reset :: rest →
    ∃ t, step s = .next t ∧ t.valid = false ∧ t.w = 0 ∧ t.h = 0 ∧ (∀ x y, t.cell x y = none) ∧
      (∀ a, t.bits.read a = none) ∧ t.cfg = s.cfg ∧ t.inbox = rest

/-- After reset VALID = 0, W = 0, H = 0 and no command is outstanding; and while VALID = 0 every command that would
read GRID or BITS is refused (rule R25). -/
def Obligations.ResetStateIsUnbound : Prop :=
  State.reset.valid = false ∧ State.reset.w = 0 ∧ State.reset.h = 0 ∧ State.reset.inbox = [] ∧
  ∀ s : State, s.valid = false → ∀ i, (i = .invert ∨ (∃ x y, i = .rdbit x y) ∨ (∃ x y, i = .rdpix x y) ∨
    (∃ k, i = .rdbyte k)) → exec i s = .next { s with resp := some .refused }

/-! ### The layout (spec/20_memory.md) -/

/-- Pixel `(x, y)` lies in byte `x * CB(H) + y div 8` at bit position `y mod 8` (rule R33). -/
def Obligations.PixelAddressSplitsIntoByteAndBit : Prop :=
  ∀ x y h : Nat, bitIndex x y h = x * padHeight h + y ∧
    bitIndex x y h / 8 = x * colBytes h + y / 8 ∧ bitIndex x y h % 8 = y % 8

/-- The bit indices that hold pixels are exactly those that are not padding, and no two pixels share one
(rules R30, R34). -/
def Obligations.PixelsAndPaddingPartitionTheBits : Prop :=
  (∀ w h k : Nat, k < w * padHeight h →
    ((∃ x y, x < w ∧ y < h ∧ k = bitIndex x y h) ↔ ¬ IsPadding h k)) ∧
  (∀ x y x' y' h : Nat, y < h → y' < h → bitIndex x y h = bitIndex x' y' h → x = x' ∧ y = y') ∧
  (∀ h : Nat, h ≤ padHeight h ∧ padHeight h - h ≤ 7)

/-! ### The quantizer (spec/40_quantizer.md) -/

/-- `quantize` keeps the dimensions and maps each cell by its mode: below 32 black, from 32 on white; a binary
cell unchanged; any other cell by `toGray`, whatever it is (rules R70 to R73). -/
def Obligations.QuantizeIsCellByCell : Prop :=
  ∀ b : PixBuf, (quantize b).w = pixWidth b ∧ (quantize b).h = pixHeight b ∧
    ∀ x y, (quantize b).cell x y = quantizedCell b x y

/-- QUANT: TypeErrorKind unless the operand is a recognized pixel buffer; then ValueErrorKind for a zero dimension
under ZERO_DIM_FAULT; else the quantized grid, and no state written (rules R74, R75). -/
def Obligations.QuantAnswersTheQuantizedGrid : Prop :=
  ∀ s : State,
    (∀ o, isPixBuf o = false → exec (.quant o) s = .next { s with resp := some (.error .typeError) }) ∧
    (∀ b, s.cfg.zeroDimFault = true → (pixWidth b = 0 ∨ pixHeight b = 0) →
      exec (.quant (.pixBuf b)) s = .next { s with resp := some (.error .valueError) }) ∧
    (∀ b, (s.cfg.zeroDimFault = true → pixWidth b ≠ 0 ∧ pixHeight b ≠ 0) →
      exec (.quant (.pixBuf b)) s = .next { s with resp := some (.ok (.grid (quantize b))) })

/-! ### The packer (spec/41_packer.md) -/

/-- `pack`, bit by bit and byte by byte (rule R80): bit `x * PH(H) + y` is the pixel, a padding bit is 0, and byte
`x * CB(H) + k` is the sum of the pixels of its eight rows at their weights. -/
def Obligations.PackedBitsAreThePixels : Prop :=
  ∀ g : Grid Bit, g.shapeOk = true →
    (pack g).width = g.w ∧ (pack g).height = g.h ∧ (pack g).bits.length = numBytes g.w g.h ∧
    (∀ x y, x < g.w → y < g.h → seqBit (pack g).bits (x * padHeight g.h + y) = g.cell x y) ∧
    (∀ k, k < g.w * padHeight g.h → IsPadding g.h k → seqBit (pack g).bits k = some false) ∧
    (∀ x k, x < g.w → k < colBytes g.h → ∃ b : Byte, (pack g).bits[x * colBytes g.h + k]? = some b ∧
      b.toNat = ∑ j ∈ Finset.range 8,
        if 8 * k + j < g.h ∧ g.cell x (8 * k + j) = some true then 2 ^ j else 0)

/-- The length of a packed buffer, for every grid (rule R82). -/
def Obligations.PackedLengthIsTheByteCount : Prop :=
  ∀ g : Grid Bit, (pack g).bits.length = g.w * ((g.h + 7) / 8 * 8) / 8 ∧
    g.w * ((g.h + 7) / 8 * 8) % 8 = 0 ∧ (pack g).bits.length = numBytes g.w g.h

/-- PACK: refused unless the operand is a BIN pixel buffer; then ValueErrorKind for a zero dimension under
ZERO_DIM_FAULT; else the PackedBitmap, and no state written; the result for a zero dimension has no bytes
(rules R83, R84). -/
def Obligations.PackAnswersThePackedBitmap : Prop :=
  (∀ s : State,
    (∀ o, isBinBuf o = false → exec (.pack o) s = .next { s with resp := some .refused }) ∧
    (∀ g, s.cfg.zeroDimFault = true → (g.w = 0 ∨ g.h = 0) →
      exec (.pack (.pixBuf (.bin g))) s = .next { s with resp := some (.error .valueError) }) ∧
    (∀ g, (s.cfg.zeroDimFault = true → g.w ≠ 0 ∧ g.h ≠ 0) →
      exec (.pack (.pixBuf (.bin g))) s = .next { s with resp := some (.ok (.packed (pack g))) })) ∧
  (∀ g : Grid Bit, g.w = 0 ∨ g.h = 0 → (pack g).bits = [])

/-- The bit serializer, in both forms of its assembly register, computes `pack`: after 8n bit steps it has emitted
the first n bytes, and after W * PH(H) bit steps all of them (rule R85). -/
def Obligations.SerializerEmitsThePackedBytes : Prop :=
  ∀ (f : SrForm) (g : Grid Bit),
    (∀ n, n ≤ numBytes g.w g.h →
      (serializerRun f g (8 * n) serializerStart).out = (pack g).bits.take n) ∧
    (serializerRun f g (g.w * padHeight g.h) serializerStart).out = (pack g).bits

/-! ### The unpacker (spec/42_unpacker.md) -/

/-- `unpack`: cell `(x, y)` is bit `y mod 8` of byte `x * CB(h) + y div 8`, and no other cell exists (rule R90). -/
def Obligations.UnpackedCellsAreTheBits : Prop :=
  ∀ (bs : List Byte) (w h : Nat), numBytes w h ≤ bs.length →
    (unpack bs w h).w = w ∧ (unpack bs w h).h = h ∧ (unpack bs w h).shapeOk = true ∧
    ∀ x y, x < w → y < h → (unpack bs w h).cell x y = seqBit bs (x * padHeight h + y) ∧
      ∃ b : Byte, bs[x * colBytes h + y / 8]? = some b ∧
        (unpack bs w h).cell x y = some (b.toNat.testBit (y % 8))

/-- Trailing bytes and padding bits do not affect the result (rules R92, R93). -/
def Obligations.UnpackIgnoresPaddingAndTrailingBytes : Prop :=
  (∀ (bs : List Byte) (w h : Nat), numBytes w h ≤ bs.length →
    unpack bs w h = unpack (bs.take (numBytes w h)) w h) ∧
  (∀ (bs cs : List Byte) (w h : Nat), numBytes w h ≤ bs.length → numBytes w h ≤ cs.length →
    (∀ k, k < w * padHeight h → ¬ IsPadding h k → seqBit bs k = seqBit cs k) →
    unpack bs w h = unpack cs w h)

/-- UNPACK, its causes in order: REFUSED for an argument that does not fit, TypeErrorKind for an operand that is
no raw byte sequence, ValueErrorKind for a zero dimension and for a short buffer; else the unpacked grid, and no
state written (rules R91, R94, R97). -/
def Obligations.UnpackAnswersTheUnpackedGrid : Prop :=
  ∀ (s : State) (w h : Nat),
    (∀ o, (2 ^ s.cfg.dimw ≤ w ∨ 2 ^ s.cfg.dimw ≤ h) →
      exec (.unpack o w h) s = .next { s with resp := some .refused }) ∧
    (w < 2 ^ s.cfg.dimw → h < 2 ^ s.cfg.dimw →
      (∀ o, isRawBytes o = false →
        exec (.unpack o w h) s = .next { s with resp := some (.error .typeError) }) ∧
      (∀ bs, (s.cfg.zeroDimFault = true ∧ (w = 0 ∨ h = 0)) ∨ bs.length < w * colBytes h →
        exec (.unpack (.rawBytes bs) w h) s = .next { s with resp := some (.error .valueError) }) ∧
      (∀ bs, (s.cfg.zeroDimFault = true → w ≠ 0 ∧ h ≠ 0) → w * colBytes h ≤ bs.length →
        exec (.unpack (.rawBytes bs) w h) s = .next { s with resp := some (.ok (.grid (unpack bs w h))) }))

/-- The bit deserializer computes `unpack`: after n columns of bit steps it has built the first n columns; with
height 0 it takes no bit step, and there is no cell to write (rule R95). -/
def Obligations.DeserializerBuildsTheUnpackedColumns : Prop :=
  (∀ (bs : List Byte) (w h n : Nat), numBytes w h ≤ bs.length → 1 ≤ h → n ≤ w →
    (deserializerRun bs h (n * padHeight h) deserializerStart).cols = (unpack bs w h).cols.take n) ∧
  (∀ (bs : List Byte) (w : Nat),
    deserializerRun bs 0 (w * padHeight 0) deserializerStart = deserializerStart ∧
      ∀ x y, (unpack bs w 0).cell x y = none)

/-- The laws that tie the packer and the unpacker (rules R86, R96): the round trip; the bit addressing; and the other
direction, which clears the padding bits and drops the trailing bytes, so that it is the identity exactly when the
buffer has neither. -/
def Obligations.UnpackInvertsPackAndPackNormalizes : Prop :=
  (∀ g : Grid Bit, g.shapeOk = true →
    numBytes g.w g.h ≤ (pack g).bits.length ∧ unpack (pack g).bits g.w g.h = g ∧
    ∀ x y, x < g.w → y < g.h → seqBit (pack g).bits (x * padHeight g.h + y) = g.cell x y) ∧
  (∀ (bs : List Byte) (w h : Nat), numBytes w h ≤ bs.length →
    (pack (unpack bs w h)).bits.length = numBytes w h ∧
    (∀ k, k < w * padHeight h →
      seqBit (pack (unpack bs w h)).bits k = if IsPadding h k then some false else seqBit bs k) ∧
    ((pack (unpack bs w h)).bits = bs ↔ bs.length = numBytes w h ∧
      ∀ k, k < w * padHeight h → IsPadding h k → seqBit bs k = some false))

/-! ### The Bitmap aggregate (spec/44_bitmap_invert.md) -/

/-- LDIMG (rule R110): the errors of QUANT in the same order; else the quantized image is bound, BITS is the packed
GRID with every padding bit 0, both stores agree, ORIGIN is IMG and VALID is 1. -/
def Obligations.LdimgBindsTheImage : Prop :=
  ∀ s : State,
    (∀ o, isPixBuf o = false → exec (.ldimg o) s = .next { s with resp := some (.error .typeError) }) ∧
    (∀ b, s.cfg.zeroDimFault = true → (pixWidth b = 0 ∨ pixHeight b = 0) →
      exec (.ldimg (.pixBuf b)) s = .next { s with resp := some (.error .valueError) }) ∧
    (∀ b, b.wellFormed s.cfg = true → (s.cfg.zeroDimFault = true → pixWidth b ≠ 0 ∧ pixHeight b ≠ 0) →
      ∃ t, exec (.ldimg (.pixBuf b)) s = .next t ∧ t.resp = some (.ok .nothing) ∧
        t.w = pixWidth b ∧ t.h = pixHeight b ∧ t.valid = true ∧ t.origin = .img ∧
        t.grid = (quantize b).cols ∧ (∀ x y, t.cell x y = quantizedCell b x y) ∧
        t.bits.bytes = (pack ⟨t.w, t.h, t.grid⟩).bits ∧ t.StoresOk ∧ t.Agrees ∧
        (∀ k, k < t.w * padHeight t.h → IsPadding t.h k → t.bits.bit k = some false) ∧ SameChannel s t)

/-- LDRAW (rule R111): the errors of UNPACK in the same order; else the first NB(w, h) bytes are bound verbatim, the
grid is unpacked from the operand, both stores agree, ORIGIN is RAW and VALID is 1; BITS is the packed GRID exactly
when every padding bit of the input was 0. -/
def Obligations.LdrawBindsTheRawBytes : Prop :=
  ∀ (s : State) (w h : Nat),
    (∀ o, (2 ^ s.cfg.dimw ≤ w ∨ 2 ^ s.cfg.dimw ≤ h) →
      exec (.ldraw o w h) s = .next { s with resp := some .refused }) ∧
    (w < 2 ^ s.cfg.dimw → h < 2 ^ s.cfg.dimw →
      (∀ o, isRawBytes o = false →
        exec (.ldraw o w h) s = .next { s with resp := some (.error .typeError) }) ∧
      (∀ bs, (s.cfg.zeroDimFault = true ∧ (w = 0 ∨ h = 0)) ∨ bs.length < w * colBytes h →
        exec (.ldraw (.rawBytes bs) w h) s = .next { s with resp := some (.error .valueError) }) ∧
      (∀ bs, (s.cfg.zeroDimFault = true → w ≠ 0 ∧ h ≠ 0) → w * colBytes h ≤ bs.length →
        ∃ t, exec (.ldraw (.rawBytes bs) w h) s = .next t ∧ t.resp = some (.ok .nothing) ∧
          t.w = w ∧ t.h = h ∧ t.valid = true ∧ t.origin = .raw ∧ t.grid = (unpack bs w h).cols ∧
          t.bits.bytes = bs.take (w * colBytes h) ∧
          (t.bits.bytes = (pack ⟨t.w, t.h, t.grid⟩).bits ↔
            ∀ k, k < w * padHeight h → IsPadding h k → seqBit bs k = some false) ∧
          (∀ i, t.bits.read i = if i < w * colBytes h then bs[i]? else none) ∧
          t.StoresOk ∧ t.Agrees ∧ SameChannel s t))

/-- INVERT (rule R112): refused with no Bitmap bound; else every cell of GRID and every byte of BITS is complemented
in one transition; W, H, VALID and ORIGIN are unchanged, and so are the block's parameters and what the host still
sends; with H a multiple of 8, BITS stays the packed GRID if it was. -/
def Obligations.InvertComplementsBothStores : Prop :=
  (∀ s : State, s.valid = false → exec .invert s = .next { s with resp := some .refused }) ∧
  ∀ s : State, s.valid = true →
    ∃ t, exec .invert s = .next t ∧ t.resp = some (.ok .nothing) ∧
      t.w = s.w ∧ t.h = s.h ∧ t.valid = s.valid ∧ t.origin = s.origin ∧ SameChannel s t ∧
      (∀ x y, t.cell x y = (s.cell x y).map fun b => !b) ∧
      (∀ i, t.bits.read i = (s.bits.read i).map fun b => BitVec.ofNat 8 (255 - b.toNat)) ∧
      (s.StoresOk → s.h % 8 = 0 → s.bits.bytes = (pack ⟨s.w, s.h, s.grid⟩).bits →
        t.bits.bytes = (pack ⟨t.w, t.h, t.grid⟩).bits)

/-- Two INVERT commands in a row restore GRID and BITS exactly, padding included; so the Bitmap is the same in the
visible region too (rule R113). -/
def Obligations.InvertTwiceRestoresTheBitmap : Prop :=
  ∀ s : State, s.valid = true →
    ∃ t u, exec .invert s = .next t ∧ exec .invert t = .next u ∧ SameBitmap s u ∧ SameVisible s u

/-- INVERT keeps the Bitmap invariant (rule R114). -/
def Obligations.InvertKeepsTheStoresEqual : Prop :=
  ∀ s : State, s.valid = true → s.StoresOk → s.Agrees →
    ∃ t, exec .invert s = .next t ∧ t.StoresOk ∧ t.Agrees

/-- INVERT and the readouts with no Bitmap bound are refused, whatever their arguments (rule R116). -/
def Obligations.UnboundBlockRefuses : Prop :=
  ∀ s : State, s.valid = false →
    exec .invert s = .next { s with resp := some .refused } ∧
    (∀ x y, exec (.rdbit x y) s = .next { s with resp := some .refused }) ∧
    (∀ x y, exec (.rdpix x y) s = .next { s with resp := some .refused }) ∧
    (∀ i, exec (.rdbyte i) s = .next { s with resp := some .refused })

/-- After LDIMG and one INVERT every padding bit is 1, and BITS is not the packed GRID when H is no multiple of 8
(rule R115). -/
def Obligations.PaddingBitsAreSetAfterOneInvert : Prop :=
  ∀ (s : State) (b : PixBuf), b.wellFormed s.cfg = true → pixWidth b ≠ 0 → pixHeight b ≠ 0 →
    ∃ t u, exec (.ldimg (.pixBuf b)) s = .next t ∧ exec .invert t = .next u ∧
      (∀ k, k < u.w * padHeight u.h → IsPadding u.h k → u.bits.bit k = some true) ∧
      (pixHeight b % 8 ≠ 0 → u.bits.bytes ≠ (pack ⟨u.w, u.h, u.grid⟩).bits) ∧
      (pixHeight b % 8 = 0 → u.bits.bytes = (pack ⟨u.w, u.h, u.grid⟩).bits)

/-- QUANT and then PACK of its result answer the bytes that LDIMG stores, and bind nothing (rule R60). -/
def Obligations.QuantThenPackAnswersWhatLdimgStores : Prop :=
  ∀ (s : State) (b : PixBuf), (s.cfg.zeroDimFault = true → pixWidth b ≠ 0 ∧ pixHeight b ≠ 0) →
    ∃ (t u v : State) (g : Grid Bit) (q : PackedBitmap),
      exec (.quant (.pixBuf b)) s = .next t ∧ t.resp = some (.ok (.grid g)) ∧
      exec (.pack (.pixBuf (.bin g))) t = .next u ∧ u.resp = some (.ok (.packed q)) ∧ SameBitmap s u ∧
      exec (.ldimg (.pixBuf b)) s = .next v ∧ v.bits.bytes = q.bits ∧ v.w = q.width ∧ v.h = q.height

/-! ### The readouts (spec/45_readout.md) -/

/-- RDBIT (rule R125): refused with no Bitmap bound or out of range; else bit `y mod 8` of byte
`x * CB(H) + y div 8` of BITS, and no state written. -/
def Obligations.RdbitAnswersThePackedBit : Prop :=
  ∀ (s : State) (x y : Nat),
    ((s.valid = false ∨ s.w ≤ x ∨ s.h ≤ y) →
      exec (.rdbit x y) s = .next { s with resp := some .refused }) ∧
    (s.valid = true → x < s.w → y < s.h → s.StoresOk →
      ∃ b : Byte, s.bits.read (x * colBytes s.h + y / 8) = some b ∧
        exec (.rdbit x y) s = .next { s with resp := some (.ok (.bit (b.toNat.testBit (y % 8)))) })

/-- RDPIX (rule R126): refused with no Bitmap bound or out of range; else the cell of GRID, and no state written;
and in every state of the invariant it answers what RDBIT answers. -/
def Obligations.RdpixAnswersTheCell : Prop :=
  ∀ (s : State) (x y : Nat),
    ((s.valid = false ∨ s.w ≤ x ∨ s.h ≤ y) →
      exec (.rdpix x y) s = .next { s with resp := some .refused }) ∧
    (s.valid = true → x < s.w → y < s.h → s.StoresOk →
      ∃ b : Bit, s.cell x y = some b ∧ exec (.rdpix x y) s = .next { s with resp := some (.ok (.bit b)) }) ∧
    (s.Inv → exec (.rdpix x y) s = exec (.rdbit x y) s)

/-- RDBYTE (rule R127): refused with no Bitmap bound or out of range; else the byte of BITS as stored, byte `i` of the
packed bytes in order, and no state written. -/
def Obligations.RdbyteAnswersTheStoredByte : Prop :=
  ∀ (s : State) (i : Nat),
    ((s.valid = false ∨ s.w * colBytes s.h ≤ i) →
      exec (.rdbyte i) s = .next { s with resp := some .refused }) ∧
    (s.valid = true → i < s.w * colBytes s.h → s.StoresOk →
      ∃ b : Byte, s.bits.read i = some b ∧ s.bits.bytes[i]? = some b ∧
        exec (.rdbyte i) s = .next { s with resp := some (.ok (.byte b)) })

/-- A readout out of range is refused whatever VALID, and with VALID = 0 whatever its arguments; a padding row is
out of range (rule R128). -/
def Obligations.OutOfRangeReadoutsAreRefused : Prop :=
  ∀ s : State,
    (∀ x y, s.valid = false ∨ s.w ≤ x ∨ s.h ≤ y →
      exec (.rdbit x y) s = .next { s with resp := some .refused } ∧
      exec (.rdpix x y) s = .next { s with resp := some .refused }) ∧
    (∀ i, s.valid = false ∨ numBytes s.w s.h ≤ i →
      exec (.rdbyte i) s = .next { s with resp := some .refused })

/-! ### Outcomes (spec/60_exceptions.md) -/

/-- Every command of a block whose stores match its dimensions ends in exactly one of the four outcomes, and the
first cause in the order of rule R145 decides which; a reserved opcode is refused always (rules R143, R145). -/
def Obligations.OutcomeFollowsTheTable : Prop :=
  (∀ (s : State) (i : Instr), s.StoresOk →
    ∃ t r, exec i s = .next t ∧ t.resp = some r ∧ r.status = expectedStatus s i) ∧
  (∀ (s : State) (c : Command) (rest : List HostEvent), s.inbox = .command c :: rest → Op.ofByte c.op = none →
    ∃ t, step s = .next t ∧ t.resp = some .refused)

/-- A command that does not end OK changes nothing but the response: every register, cell and byte is as before
(rule R144). -/
def Obligations.ErrorsChangeNoState : Prop :=
  ∀ (i : Instr) (s t : State), exec i s = .next t → (∀ r, t.resp ≠ some (.ok r)) →
    t = { s with resp := t.resp } ∧ (∀ a, t.bits.read a = s.bits.read a) ∧ ∀ x y, t.cell x y = s.cell x y

/-! ### Frames -/

/-- QUANT, PACK, UNPACK, RDBIT, RDPIX and RDBYTE touch no state: every register, GRID and every byte of BITS is
unchanged, and so are the block's parameters and what the host still sends (rule R18). -/
def Obligations.ReadingCommandsKeepTheBitmap : Prop :=
  ∀ (i : Instr) (s t : State),
    ((∃ o, i = .quant o) ∨ (∃ o, i = .pack o) ∨ (∃ o w h, i = .unpack o w h) ∨ (∃ x y, i = .rdbit x y) ∨
      (∃ x y, i = .rdpix x y) ∨ (∃ k, i = .rdbyte k)) →
    exec i s = .next t →
    SameBitmap s t ∧ SameChannel s t ∧ ∀ a, t.bits.read a = s.bits.read a

/-- LDIMG, LDRAW and INVERT write the six registers and stores only; a byte of BITS outside the bytes they store
does not exist after LDIMG and LDRAW, and is as before after INVERT (rules R16, R110 to R112). -/
def Obligations.WritingCommandsKeepTheRest : Prop :=
  (∀ (o : Operand) (s t : State), exec (.ldimg o) s = .next t →
    SameChannel s t ∧ (t.resp = some (.ok .nothing) → ∀ a, numBytes t.w t.h ≤ a → t.bits.read a = none)) ∧
  (∀ (o : Operand) (w h : Nat) (s t : State), exec (.ldraw o w h) s = .next t →
    SameChannel s t ∧ (t.resp = some (.ok .nothing) → ∀ a, numBytes t.w t.h ≤ a → t.bits.read a = none)) ∧
  (∀ s t : State, exec .invert s = .next t →
    t.w = s.w ∧ t.h = s.h ∧ t.valid = s.valid ∧ t.origin = s.origin ∧ SameChannel s t ∧
      ∀ a, s.bits.read a = none → t.bits.read a = none)

/-- The architectural state changes by a successful LDIMG, LDRAW or INVERT alone, and W, H and ORIGIN by LDIMG and
LDRAW alone (rules R12, R18). -/
def Obligations.OnlyThreeCommandsWriteTheBitmap : Prop :=
  ∀ (i : Instr) (s t : State), exec i s = .next t →
    (¬ SameBitmap s t → t.resp = some (.ok .nothing) ∧
      (i = .invert ∨ (∃ o, i = .ldimg o) ∨ ∃ o w h, i = .ldraw o w h)) ∧
    (t.w ≠ s.w ∨ t.h ≠ s.h ∨ t.origin ≠ s.origin ∨ t.valid ≠ s.valid →
      t.resp = some (.ok .nothing) ∧ ((∃ o, i = .ldimg o) ∨ ∃ o w h, i = .ldraw o w h))

/-- QUANT, PACK and UNPACK need no initialisation: what they answer depends on the operands and the block's
parameters, not on the state (rule R161). -/
def Obligations.PureCommandsIgnoreTheState : Prop :=
  ∀ (i : Instr) (s s' : State),
    ((∃ o, i = .quant o) ∨ (∃ o, i = .pack o) ∨ (∃ o w h, i = .unpack o w h)) → s.cfg = s'.cfg →
    ∃ r, exec i s = .next { s with resp := some r } ∧ exec i s' = .next { s' with resp := some r }

/-- While VALID = 0 nothing reads GRID, BITS or ORIGIN (rule R25): whatever the three hold, every command answers the
same response, and the same whole state when it binds a Bitmap. That the Renderer is handed no Bitmap then, the two
clauses on State.bitmap, is the model's choice (log entry 17): it is deduced from rules R25, R13 and R101, and the
spec does not say what a host renders of a block with no Bitmap bound. -/
def Obligations.UnboundBlockReadsNoStore : Prop :=
  ∀ (s : State) (o : Origin) (g : List (List Bit)) (m : Memory), s.valid = false →
    (∀ i : Instr, ∃ t t', exec i s = .next t ∧ exec i { s with origin := o, grid := g, bits := m } = .next t' ∧
      t'.resp = t.resp ∧ (t.valid = false → t' = { t with origin := o, grid := g, bits := m }) ∧
      (t.valid = true → t' = t)) ∧
    s.bitmap = none ∧ ({ s with origin := o, grid := g, bits := m } : State).bitmap = none

/-! ### Invariants -/

/-- The invariant holds after reset (rules R17, R25). The parameters and the empty stores it has there are the model's
choice (log entries 1, 4). -/
def Obligations.ResetStateMeetsTheInvariant : Prop := State.reset.Inv

/-- Every step keeps the invariant: the registers fit, the stores match W and H, and GRID and BITS agree on every
pixel (rules R12, R16, R17). -/
def Obligations.StepKeepsTheInvariant : Prop :=
  ∀ s t : State, s.Inv → step s = .next t → t.Inv

/-- Every step keeps the byte store in its canonical form, in every state. -/
def Obligations.StepKeepsTheByteStoreCanonical : Prop :=
  ∀ s t : State, s.bits.wf → step s = .next t → t.bits.wf

/-- No step changes the block's parameters. -/
def Obligations.StepKeepsTheParameters : Prop :=
  ∀ s t : State, step s = .next t → t.cfg = s.cfg

/-- A step in a state of the invariant never faults: it answers a next state, or refuses what is no operand object,
which the decoder has rejected by name. -/
def Obligations.StepNeverFaults : Prop :=
  ∀ s : State, s.Inv →
    (∃ t, step s = .next t) ∨
    (step s = .refused .malformedOperand ∧
      ∃ c rest, s.inbox = .command c :: rest ∧ decode s.cfg c = .error .malformedOperand)

/-- VALID is set by a successful LDIMG or LDRAW alone and cleared by reset alone (rule R13). -/
def Obligations.OnlyResetClearsValid : Prop :=
  ∀ s t : State, step s = .next t →
    (s.valid = true → t.valid = false → ∃ rest, s.inbox = .reset :: rest) ∧
    (s.valid = false → t.valid = true → t.resp = some (.ok .nothing) ∧
      ∃ c rest i, s.inbox = .command c :: rest ∧ decode s.cfg c = .ok i ∧
        ((∃ o, i = .ldimg o) ∨ ∃ o w h, i = .ldraw o w h))

/-! ### The Renderer (spec/43_renderer_host.md) -/

/-- `renderAscii` (rule R101): H lines of W characters and a newline each, `#` for a set pixel and a space for a
clear one. -/
def Obligations.AsciiRenderingShowsThePixels : Prop :=
  ∀ s : State, s.Inv → s.valid = true → ∀ fromPacked : Bool,
    ∃ src text, s.bitmap = some src ∧ renderAscii s.cfg src fromPacked = .ok text ∧
      text.length = s.h * (s.w + 1) ∧
      ∀ y, y < s.h → text[y * (s.w + 1) + s.w]? = some '\n' ∧
        ∀ x, x < s.w → ∃ b, s.cell x y = some b ∧ s.bits.bit (x * padHeight s.h + y) = some b ∧
          text[y * (s.w + 1) + x]? = some (if b then '#' else ' ')

/-- Both paths of `renderAscii` agree for every Bitmap the block can hold (rule R102). -/
def Obligations.AsciiRenderingPathsAgree : Prop :=
  ∀ s : State, s.Inv → s.valid = true →
    ∃ src text, s.bitmap = some src ∧ renderAscii s.cfg src true = .ok text ∧
      renderAscii s.cfg src false = .ok text

/-- `renderAscii` with a zero dimension (rule R105): ValueErrorKind under ZERO_DIM_FAULT, where no Bitmap with one can
be bound; else the empty text for H = 0 and H newlines for W = 0. -/
def Obligations.AsciiRenderingOfZeroDimensions : Prop :=
  (∀ (p : Params) (b : Bitmap) (fromPacked : Bool), p.zeroDimFault = true → (b.w = 0 ∨ b.h = 0) →
    renderAscii p b fromPacked = .error .valueErrorKind) ∧
  (∀ s : State, s.Inv → s.valid = true → s.cfg.zeroDimFault = true → s.w ≠ 0 ∧ s.h ≠ 0) ∧
  (∀ (p : Params) (b : Bitmap) (fromPacked : Bool), p.zeroDimFault = false → b.shapeOk = true →
    (b.h = 0 → renderAscii p b fromPacked = .ok []) ∧
    (b.w = 0 → renderAscii p b fromPacked = .ok (List.replicate b.h '\n')))

/-- `renderCArray` (rules R103, R104): ValueErrorKind exactly for a line width below 1; the empty text for no bytes;
one line for at most `lineWidth` bytes; and more bytes are the first line, a comma and a newline, and the rest. A byte
literal is 0x and two upper-case hexadecimal digits. -/
def Obligations.CArrayRenderingSplitsIntoLines : Prop :=
  (∀ b : Byte, hexByte b =
    ['0', 'x', (Nat.digitChar (b.toNat / 16)).toUpper, (Nat.digitChar (b.toNat % 16)).toUpper]) ∧
  ∀ (bs : List Byte) (lead : Text),
    (∀ n : Int, renderCArray bs lead n = .error .valueErrorKind ↔ n < 1) ∧
    (∀ n : Nat, 1 ≤ n → renderCArray [] lead n = .ok []) ∧
    (∀ n : Nat, bs ≠ [] → bs.length ≤ n →
      renderCArray bs lead n = .ok (lead ++ List.intercalate [',', ' '] (bs.map hexByte))) ∧
    (∀ n : Nat, 1 ≤ n → n < bs.length → ∃ rest,
      renderCArray (bs.drop n) lead n = .ok rest ∧
      renderCArray bs lead n =
        .ok (lead ++ List.intercalate [',', ' '] ((bs.take n).map hexByte) ++ [',', '\n'] ++ rest))
end

