-- ==== Sys2Proof/Laws/Grid.lean ====
section
/-! SUPPORT. What reading, building and mapping a grid give. -/

namespace Sys2Proof

theorem Grid.shapeOk_iff {α : Type} (g : Grid α) :
    g.shapeOk = true ↔ g.cols.length = g.w ∧ ∀ col ∈ g.cols, col.length = g.h := by
  simp [Grid.shapeOk]

/-- In a grid of the right shape exactly the cells of rule R15 exist. -/
theorem cellOf_isSome_iff {α : Type} {cols : List (List α)} {w h : Nat} (hw : cols.length = w)
    (hh : ∀ col ∈ cols, col.length = h) (x y : Nat) : (cellOf cols x y).isSome ↔ x < w ∧ y < h := by
  unfold cellOf
  by_cases hx : x < cols.length
  · have := hh cols[x] (List.getElem_mem hx)
    simp [hx, this, ← hw]
  · simp [List.getElem?_eq_none (Nat.le_of_not_lt hx)]
    omega

theorem cellOf_map {α β : Type} (f : α → β) (cols : List (List α)) (x y : Nat) :
    cellOf (cols.map fun c => c.map f) x y = (cellOf cols x y).map f := by
  unfold cellOf
  rw [List.getElem?_map]
  cases cols[x]? <;> simp

theorem Grid.cell_map {α β : Type} (f : α → β) (g : Grid α) (x y : Nat) :
    (g.map f).cell x y = (g.cell x y).map f := cellOf_map f g.cols x y

theorem Grid.shapeOk_map {α β : Type} (f : α → β) (g : Grid α) : (g.map f).shapeOk = g.shapeOk := by
  simp [Grid.shapeOk, Grid.map, Function.comp_def]

theorem Grid.cell_ofFn {α : Type} (w h : Nat) (f : Nat → Nat → α) (x y : Nat) :
    (Grid.ofFn w h f).cell x y = if x < w ∧ y < h then some (f x y) else none := by
  unfold Grid.cell Grid.ofFn cellOf
  by_cases hx : x < w <;> by_cases hy : y < h <;> simp [hx, hy]

theorem Grid.shapeOk_ofFn {α : Type} (w h : Nat) (f : Nat → Nat → α) : (Grid.ofFn w h f).shapeOk = true := by
  simp [Grid.shapeOk_iff, Grid.ofFn]

end Sys2Proof
end

