-- ==== Sys2Proof/Laws/Layout.lean ====
section
/-! SUPPORT. The index functions and the bits of a byte. -/

namespace Sys2Proof.Machine

theorem padHeight_eq (h : Nat) : padHeight h = 8 * colBytes h := by
  simp [padHeight, colBytes, Nat.mul_comm]

theorem numBytes_eq (w h : Nat) : numBytes w h = w * colBytes h := by
  simp [numBytes, padHeight_eq, Nat.mul_left_comm w 8]

theorem le_padHeight (h : Nat) : h ≤ padHeight h := by unfold padHeight; omega

theorem padHeight_lt (h : Nat) : padHeight h < h + 8 := by unfold padHeight; omega

theorem byteBit_eq_getLsbD (b : Byte) (j : Nat) : byteBit b j = b.getLsbD j := by
  have h1 : (b >>> j) &&& 1#8 = BitVec.ofNat 8 ((b >>> j).toNat % 2) := by
    apply BitVec.eq_of_toNat_eq
    simp [Nat.and_one_is_mod]
    omega
  unfold byteBit
  rw [h1]
  simp only [BitVec.getLsbD, BitVec.toNat_ushiftRight, Nat.testBit, Nat.and_comm 1, Nat.and_one_is_mod]
  rcases Nat.mod_two_eq_zero_or_one (b.toNat >>> j) with h | h <;> simp [h]

theorem getLsbD_bitByte (b : Bit) (i : Nat) : (bitByte b).getLsbD i = (decide (i = 0) && b) := by
  cases b <;> cases i <;> simp [bitByte]

/-- Bit `j` of the byte built from `f` is `f j` (rule R80). -/
theorem byteBit_byteOf (f : Nat → Bit) (j : Nat) (hj : j < 8) : byteBit (byteOf f) j = f j := by
  simp only [byteOf, byteBit_eq_getLsbD, show List.range 8 = [0, 1, 2, 3, 4, 5, 6, 7] from rfl, List.foldl,
    BitVec.getLsbD_or, BitVec.getLsbD_shiftLeft, getLsbD_bitByte]
  interval_cases j <;> simp

/-- Two bytes with the same eight bits are the same byte. -/
theorem byte_ext {a b : Byte} (h : ∀ j, j < 8 → byteBit a j = byteBit b j) : a = b := by
  apply BitVec.eq_of_getLsbD_eq
  intro i hi
  simpa [byteBit_eq_getLsbD] using h i hi

/-- Complementing a byte complements each of its bits (rule R114). -/
theorem byteBit_complement (b : Byte) (j : Nat) (hj : j < 8) : byteBit (b ^^^ 0xFF#8) j = !byteBit b j := by
  rw [byteBit_eq_getLsbD, byteBit_eq_getLsbD, BitVec.getLsbD_xor, show (0xFF#8 : Byte) = BitVec.allOnes 8 from rfl,
    BitVec.getLsbD_allOnes]
  simp [hj]

end Sys2Proof.Machine
end

