-- ==== Sys2Proof/Laws/Codec.lean ====
section
/-! SUPPORT. The fields of what the codec's functions build, and the lemma that finds an element of column records
of equal length. -/

namespace Sys2Proof.Machine

@[simp] theorem pack_width (g : Grid Bit) : (pack g).width = g.w := rfl
@[simp] theorem pack_height (g : Grid Bit) : (pack g).height = g.h := rfl
@[simp] theorem unpack_w (bs : List Byte) (w h : Nat) : (unpack bs w h).w = w := rfl
@[simp] theorem unpack_h (bs : List Byte) (w h : Nat) : (unpack bs w h).h = h := rfl

theorem unpack_shapeOk (bs : List Byte) (w h : Nat) : (unpack bs w h).shapeOk = true := Grid.shapeOk_ofFn _ _ _

theorem quantize_shapeOk (p : Params) (b : PixBuf) (hb : b.wellFormed p = true) : (quantize b).shapeOk = true := by
  cases b <;> simp_all [PixBuf.wellFormed, Grid.wellFormed, quantize, Grid.shapeOk_map]

/-- `w` records of `n` elements each hold `w * n` elements. -/
theorem length_records {α : Type} (w n : Nat) (f : Nat → Nat → α) :
    ((List.range w).flatMap fun x => (List.range n).map (f x)).length = w * n := by
  simp [List.length_flatMap]

/-- Element `k` of record `x` stands at `x * n + k`. -/
theorem getElem?_records {α : Type} (w n : Nat) (f : Nat → Nat → α) {x k : Nat} (hx : x < w) (hk : k < n) :
    ((List.range w).flatMap fun x => (List.range n).map (f x))[x * n + k]? = some (f x k) := by
  induction w with
  | zero => omega
  | succ w ih =>
    rw [List.range_succ, List.flatMap_append]
    by_cases hxw : x < w
    · rw [List.getElem?_append_left, ih hxw]
      rw [length_records]
      have : (x + 1) * n ≤ w * n := Nat.mul_le_mul_right n hxw
      rw [Nat.add_one_mul] at this
      omega
    · obtain rfl : x = w := by omega
      rw [List.getElem?_append_right (by rw [length_records]; omega), length_records]
      simp [hk]

end Sys2Proof.Machine
end

