-- ==== Sys2Proof/Laws/Operands.lean ====
section
/-! SUPPORT. When a check of a command's operands passes, and what it then answers. -/

namespace Sys2Proof.Machine

theorem pixOperand_eq_ok (p : Params) (o : Operand) (b : PixBuf) :
    pixOperand p o = .ok b ↔ o = .pixBuf b ∧ zeroDim p (pixWidth b) (pixHeight b) = false := by
  cases o with
  | pixBuf b' =>
    cases hz : zeroDim p (pixWidth b') (pixHeight b') <;> simp only [pixOperand, hz]
    · constructor
      · rintro h
        cases h
        exact ⟨rfl, hz⟩
      · rintro ⟨h, -⟩
        cases h
        rfl
    · constructor
      · rintro h
        cases h
      · rintro ⟨h, h0⟩
        cases h
        rw [hz] at h0
        cases h0
  | _ => simp [pixOperand]

theorem binOperand_eq_ok (p : Params) (o : Operand) (g : Grid Bit) :
    binOperand p o = .ok g ↔ o = .pixBuf (.bin g) ∧ zeroDim p g.w g.h = false := by
  cases o with
  | pixBuf b =>
    cases b with
    | bin g' =>
      cases hz : zeroDim p g'.w g'.h <;> simp only [binOperand, hz]
      · constructor
        · rintro h
          cases h
          exact ⟨rfl, hz⟩
        · rintro ⟨h, -⟩
          cases h
          rfl
      · constructor
        · rintro h
          cases h
        · rintro ⟨h, h0⟩
          cases h
          rw [hz] at h0
          cases h0
    | _ => simp [binOperand]
  | _ => simp [binOperand]

theorem rawBytesFor_eq_ok (p : Params) (w h : Nat) (o : Operand) (bs : List Byte) :
    rawBytesFor p w h o = .ok bs ↔ o = .rawBytes bs ∧ zeroDim p w h = false ∧ numBytes w h ≤ bs.length := by
  cases o with
  | rawBytes bs' =>
    by_cases hz : zeroDim p w h = true
    · simp [rawBytesFor, hz]
    · by_cases hl : bs'.length < numBytes w h
      · simp only [rawBytesFor, hz, hl, if_true, Bool.false_eq_true, if_false, reduceCtorEq, false_iff,
          Operand.rawBytes.injEq]
        rintro ⟨rfl, -, hn⟩
        omega
      · simp only [rawBytesFor, hz, hl, Bool.false_eq_true, if_false, Except.ok.injEq, Operand.rawBytes.injEq]
        constructor
        · rintro rfl
          exact ⟨rfl, by simp, by omega⟩
        · exact fun h => h.1
  | _ => simp [rawBytesFor]

theorem rawOperand_eq_ok (p : Params) (o : Operand) (w h : Nat) (bs : List Byte) :
    rawOperand p o w h = .ok bs ↔ w < 2 ^ p.dimw ∧ h < 2 ^ p.dimw ∧ o = .rawBytes bs ∧
      zeroDim p w h = false ∧ numBytes w h ≤ bs.length := by
  unfold rawOperand Params.fitsDim
  by_cases hf : w < 2 ^ p.dimw ∧ h < 2 ^ p.dimw
  · simp [hf.1, hf.2, rawBytesFor_eq_ok]
  · have : (decide (w < 2 ^ p.dimw) && decide (h < 2 ^ p.dimw)) = false := by simpa using hf
    simp only [this, Bool.false_eq_true, if_false, reduceCtorEq, false_iff]
    tauto

theorem pixelInRange_eq_ok (s : State) (x y : Nat) (q : Nat × Nat) :
    pixelInRange s x y = .ok q ↔ q = (x, y) ∧ s.valid = true ∧ x < s.w ∧ y < s.h := by
  unfold pixelInRange
  by_cases hv : s.valid = true <;> by_cases hr : x < s.w ∧ y < s.h <;> simp [hv, hr, eq_comm]

theorem byteInRange_eq_ok (s : State) (i k : Nat) :
    byteInRange s i = .ok k ↔ k = i ∧ s.valid = true ∧ i < numBytes s.w s.h := by
  unfold byteInRange
  by_cases hv : s.valid = true <;> by_cases hr : i < numBytes s.w s.h <;> simp [hv, hr, eq_comm]

/-! A check that fails ends the command with an error or a refusal, never with OK (rule R140). -/

theorem pixOperand_error {p : Params} {o : Operand} {r : Response} (h : pixOperand p o = .error r) (q : Result) :
    r ≠ .ok q := by
  unfold pixOperand at h
  split at h <;> try split at h
  all_goals cases h <;> simp

theorem binOperand_error {p : Params} {o : Operand} {r : Response} (h : binOperand p o = .error r) (q : Result) :
    r ≠ .ok q := by
  unfold binOperand at h
  split at h <;> try split at h
  all_goals cases h <;> simp

theorem rawBytesFor_error {p : Params} {w h : Nat} {o : Operand} {r : Response}
    (he : rawBytesFor p w h o = .error r) (q : Result) : r ≠ .ok q := by
  unfold rawBytesFor at he
  split at he
  · split at he
    · cases he
      simp
    · split at he <;> cases he
      simp
  all_goals cases he; simp

theorem rawOperand_error {p : Params} {o : Operand} {w h : Nat} {r : Response}
    (he : rawOperand p o w h = .error r) (q : Result) : r ≠ .ok q := by
  unfold rawOperand at he
  split at he
  · exact rawBytesFor_error he q
  · cases he
    simp

theorem pixelInRange_error {s : State} {x y : Nat} {r : Response} (h : pixelInRange s x y = .error r)
    (q : Result) : r ≠ .ok q := by
  unfold pixelInRange at h
  split at h <;> try split at h
  all_goals cases h <;> simp

theorem byteInRange_error {s : State} {i : Nat} {r : Response} (h : byteInRange s i = .error r) (q : Result) :
    r ≠ .ok q := by
  unfold byteInRange at h
  split at h <;> try split at h
  all_goals cases h <;> simp

end Sys2Proof.Machine
end

