-- ==== Sys2Proof/Laws/State.lean ====
section
/-! SUPPORT. Every field of State after every update, true by unfolding, so that no proof unfolds a record update. -/

namespace Sys2Proof.Machine

@[simp] theorem State.respond_cfg (r : Response) (s : State) : (s.respond r).cfg = s.cfg := rfl
@[simp] theorem State.respond_w (r : Response) (s : State) : (s.respond r).w = s.w := rfl
@[simp] theorem State.respond_h (r : Response) (s : State) : (s.respond r).h = s.h := rfl
@[simp] theorem State.respond_valid (r : Response) (s : State) : (s.respond r).valid = s.valid := rfl
@[simp] theorem State.respond_origin (r : Response) (s : State) : (s.respond r).origin = s.origin := rfl
@[simp] theorem State.respond_grid (r : Response) (s : State) : (s.respond r).grid = s.grid := rfl
@[simp] theorem State.respond_bits (r : Response) (s : State) : (s.respond r).bits = s.bits := rfl
@[simp] theorem State.respond_inbox (r : Response) (s : State) : (s.respond r).inbox = s.inbox := rfl
@[simp] theorem State.respond_resp (r : Response) (s : State) : (s.respond r).resp = some r := rfl

@[simp] theorem State.bindBitmap_cfg (o : Origin) (g : Grid Bit) (bs : List Byte) (s : State) : (s.bindBitmap o g bs).cfg = s.cfg := rfl
@[simp] theorem State.bindBitmap_w (o : Origin) (g : Grid Bit) (bs : List Byte) (s : State) : (s.bindBitmap o g bs).w = g.w := rfl
@[simp] theorem State.bindBitmap_h (o : Origin) (g : Grid Bit) (bs : List Byte) (s : State) : (s.bindBitmap o g bs).h = g.h := rfl
@[simp] theorem State.bindBitmap_valid (o : Origin) (g : Grid Bit) (bs : List Byte) (s : State) : (s.bindBitmap o g bs).valid = true := rfl
@[simp] theorem State.bindBitmap_origin (o : Origin) (g : Grid Bit) (bs : List Byte) (s : State) : (s.bindBitmap o g bs).origin = o := rfl
@[simp] theorem State.bindBitmap_grid (o : Origin) (g : Grid Bit) (bs : List Byte) (s : State) : (s.bindBitmap o g bs).grid = g.cols := rfl
@[simp] theorem State.bindBitmap_bits (o : Origin) (g : Grid Bit) (bs : List Byte) (s : State) : (s.bindBitmap o g bs).bits = Memory.ofBytes bs := rfl
@[simp] theorem State.bindBitmap_inbox (o : Origin) (g : Grid Bit) (bs : List Byte) (s : State) : (s.bindBitmap o g bs).inbox = s.inbox := rfl
@[simp] theorem State.bindBitmap_resp (o : Origin) (g : Grid Bit) (bs : List Byte) (s : State) : (s.bindBitmap o g bs).resp = s.resp := rfl

@[simp] theorem State.complement_cfg (s : State) : s.complement.cfg = s.cfg := rfl
@[simp] theorem State.complement_w (s : State) : s.complement.w = s.w := rfl
@[simp] theorem State.complement_h (s : State) : s.complement.h = s.h := rfl
@[simp] theorem State.complement_valid (s : State) : s.complement.valid = s.valid := rfl
@[simp] theorem State.complement_origin (s : State) : s.complement.origin = s.origin := rfl
@[simp] theorem State.complement_grid (s : State) : s.complement.grid = s.grid.map fun c => c.map fun b => !b := rfl
@[simp] theorem State.complement_bits (s : State) : s.complement.bits = s.bits.complement := rfl
@[simp] theorem State.complement_inbox (s : State) : s.complement.inbox = s.inbox := rfl
@[simp] theorem State.complement_resp (s : State) : s.complement.resp = s.resp := rfl

@[simp] theorem State.accept_cfg (rest : List HostEvent) (s : State) : (s.accept rest).cfg = s.cfg := rfl
@[simp] theorem State.accept_w (rest : List HostEvent) (s : State) : (s.accept rest).w = s.w := rfl
@[simp] theorem State.accept_h (rest : List HostEvent) (s : State) : (s.accept rest).h = s.h := rfl
@[simp] theorem State.accept_valid (rest : List HostEvent) (s : State) : (s.accept rest).valid = s.valid := rfl
@[simp] theorem State.accept_origin (rest : List HostEvent) (s : State) : (s.accept rest).origin = s.origin := rfl
@[simp] theorem State.accept_grid (rest : List HostEvent) (s : State) : (s.accept rest).grid = s.grid := rfl
@[simp] theorem State.accept_bits (rest : List HostEvent) (s : State) : (s.accept rest).bits = s.bits := rfl
@[simp] theorem State.accept_inbox (rest : List HostEvent) (s : State) : (s.accept rest).inbox = rest := rfl
@[simp] theorem State.accept_resp (rest : List HostEvent) (s : State) : (s.accept rest).resp = s.resp := rfl

@[simp] theorem State.issue_cfg (c : Command) (s : State) : (s.issue c).cfg = s.cfg := rfl
@[simp] theorem State.issue_w (c : Command) (s : State) : (s.issue c).w = s.w := rfl
@[simp] theorem State.issue_h (c : Command) (s : State) : (s.issue c).h = s.h := rfl
@[simp] theorem State.issue_valid (c : Command) (s : State) : (s.issue c).valid = s.valid := rfl
@[simp] theorem State.issue_origin (c : Command) (s : State) : (s.issue c).origin = s.origin := rfl
@[simp] theorem State.issue_grid (c : Command) (s : State) : (s.issue c).grid = s.grid := rfl
@[simp] theorem State.issue_bits (c : Command) (s : State) : (s.issue c).bits = s.bits := rfl
@[simp] theorem State.issue_inbox (c : Command) (s : State) : (s.issue c).inbox = .command c :: s.inbox := rfl
@[simp] theorem State.issue_resp (c : Command) (s : State) : (s.issue c).resp = s.resp := rfl

@[simp] theorem State.afterReset_cfg (rest : List HostEvent) (s : State) : (s.afterReset rest).cfg = s.cfg := rfl
@[simp] theorem State.afterReset_w (rest : List HostEvent) (s : State) : (s.afterReset rest).w = 0 := rfl
@[simp] theorem State.afterReset_h (rest : List HostEvent) (s : State) : (s.afterReset rest).h = 0 := rfl
@[simp] theorem State.afterReset_valid (rest : List HostEvent) (s : State) : (s.afterReset rest).valid = false := rfl
@[simp] theorem State.afterReset_origin (rest : List HostEvent) (s : State) : (s.afterReset rest).origin = .img := rfl
@[simp] theorem State.afterReset_grid (rest : List HostEvent) (s : State) : (s.afterReset rest).grid = [] := rfl
@[simp] theorem State.afterReset_bits (rest : List HostEvent) (s : State) : (s.afterReset rest).bits = [] := rfl
@[simp] theorem State.afterReset_inbox (rest : List HostEvent) (s : State) : (s.afterReset rest).inbox = rest := rfl
@[simp] theorem State.afterReset_resp (rest : List HostEvent) (s : State) : (s.afterReset rest).resp = none := rfl

end Sys2Proof.Machine
end

