-- ==== Sys2Proof/Laws/Ops.lean ====
section
/-! SUPPORT. What the operations over the byte store and the response channel do. -/

namespace Sys2Proof.Machine

/-! ### Answers -/

/-- A command's answer is a next state, and the only one is the state with the response on the channel. -/
theorem answer_eq_next (r : Response) (s t : State) : answer r s = .next t ↔ t = s.respond r := by
  simp [answer, eq_comm]

theorem raise_eq_next (k : ErrorKind) (s t : State) : raise k s = .next t ↔ t = s.respond (.error k) :=
  answer_eq_next _ s t

theorem refuse_eq_next (s t : State) : refuse s = .next t ↔ t = s.respond .refused :=
  answer_eq_next _ s t

/-! ### The byte store -/

theorem Memory.map_fst_ofBytesFrom (base : Nat) (bs : List Byte) :
    (Memory.ofBytesFrom base bs).map Prod.fst = List.range' base bs.length := by
  induction bs generalizing base with
  | nil => rfl
  | cons b bs ih => simp [Memory.ofBytesFrom, ih, List.range'_succ]

/-- The store of `n` bytes has exactly the addresses 0 to n - 1. -/
theorem Memory.map_fst_ofBytes (bs : List Byte) :
    (Memory.ofBytes bs).map Prod.fst = List.range bs.length := by
  rw [Memory.ofBytes, Memory.map_fst_ofBytesFrom, List.range_eq_range']

theorem Memory.bytes_ofBytes (bs : List Byte) : (Memory.ofBytes bs).bytes = bs := by
  unfold Memory.ofBytes
  generalize 0 = base
  induction bs generalizing base with
  | nil => rfl
  | cons b bs ih => simpa [Memory.ofBytesFrom, Memory.bytes] using ih (base + 1)

theorem Memory.read_ofBytesFrom (base : Nat) (bs : List Byte) (i : Nat) :
    (Memory.ofBytesFrom base bs).read (base + i) = bs[i]? := by
  induction bs generalizing base i with
  | nil => rfl
  | cons b bs ih =>
    cases i with
    | zero => simp [Memory.ofBytesFrom, Memory.read]
    | succ i =>
      have := ih (base + 1) i
      rw [show base + 1 + i = base + (i + 1) by omega] at this
      simp [Memory.ofBytesFrom, Memory.read, this]

/-- Byte `i` of the store of a byte sequence is byte `i` of the sequence. -/
theorem Memory.read_ofBytes (bs : List Byte) (i : Nat) : (Memory.ofBytes bs).read i = bs[i]? := by
  have := Memory.read_ofBytesFrom 0 bs i
  rwa [Nat.zero_add] at this

theorem Memory.bit_ofBytes (bs : List Byte) (k : Nat) : (Memory.ofBytes bs).bit k = seqBit bs k := by
  simp [Memory.bit, Memory.read_ofBytes, seqBit]

theorem Memory.map_fst_complement (m : Memory) : m.complement.map Prod.fst = m.map Prod.fst := by
  simp [Memory.complement, Function.comp_def]

theorem Memory.read_complement (m : Memory) (a : Nat) :
    m.complement.read a = (m.read a).map fun b => b ^^^ 0xFF#8 := by
  induction m with
  | nil => rfl
  | cons c m ih =>
    simp only [Memory.complement, List.map_cons, Memory.read] at ih ⊢
    split <;> simp_all

/-- Complementing a store complements each of its bits (rule R114). -/
theorem Memory.bit_complement (m : Memory) (k : Nat) : m.complement.bit k = (m.bit k).map fun b => !b := by
  simp only [Memory.bit, Memory.read_complement, Option.map_map, Function.comp_def,
    byteBit_complement _ _ (Nat.mod_lt k (by decide : 0 < 8))]

/-- A store whose addresses are 0 to n - 1 has a byte at exactly those. -/
theorem Memory.read_isSome_iff (m : Memory) (a : Nat) : (m.read a).isSome ↔ a ∈ m.map Prod.fst := by
  induction m with
  | nil => simp [Memory.read]
  | cons c m ih =>
    simp only [Memory.read, List.map_cons, List.mem_cons]
    by_cases h : c.1 = a
    · simp [h]
    · rw [if_neg h, ih]
      exact ⟨Or.inr, fun hm => hm.resolve_left (Ne.symm h)⟩

/-! ### The canonical form -/

theorem Memory.wf_of_map_fst {m : Memory} {n : Nat} (h : m.map Prod.fst = List.range n) : m.wf := by
  unfold Memory.wf
  rw [h]
  exact List.pairwise_lt_range

theorem Memory.wf_ofBytes (bs : List Byte) : (Memory.ofBytes bs).wf :=
  Memory.wf_of_map_fst (Memory.map_fst_ofBytes bs)

theorem Memory.wf_complement {m : Memory} (h : m.wf) : m.complement.wf := by
  unfold Memory.wf at *
  rwa [Memory.map_fst_complement]

/-- The three byte stores the model builds from are canonical: reset's, a bound Bitmap's, a complemented one's. -/
theorem State.reset_bits_wf : State.reset.bits.wf := by decide

theorem State.bindBitmap_bits_wf (o : Origin) (g : Grid Bit) (bs : List Byte) (s : State) :
    (s.bindBitmap o g bs).bits.wf := Memory.wf_ofBytes bs

theorem State.complement_bits_wf {s : State} (h : s.bits.wf) : s.complement.bits.wf := Memory.wf_complement h

end Sys2Proof.Machine
end

