-- ==== Sys2Proof/Laws/Exec.lean ====
section
/-! SUPPORT. Everything a command, and a step, can do: proofs cite these two lemmas and do not unfold `exec`
or `step`. -/

namespace Sys2Proof.Machine

/-- What a command can do when it answers a next state: it only responds (and then never with the empty OK result
of the writing commands), or it complements a bound Bitmap, or it binds a new one. -/
theorem exec_cases {i : Instr} {s t : State} (h : exec i s = .next t) :
    (∃ r, r ≠ .ok .nothing ∧ t = s.respond r) ∨
    (i = .invert ∧ s.valid = true ∧ t = s.complement.respond (.ok .nothing)) ∨
    (∃ b, i = .ldimg (.pixBuf b) ∧ zeroDim s.cfg (pixWidth b) (pixHeight b) = false ∧
      t = (s.bindBitmap .img (quantize b) (pack (quantize b)).bits).respond (.ok .nothing)) ∨
    (∃ bs w h, i = .ldraw (.rawBytes bs) w h ∧ w < 2 ^ s.cfg.dimw ∧ h < 2 ^ s.cfg.dimw ∧
      zeroDim s.cfg w h = false ∧ numBytes w h ≤ bs.length ∧
      t = (s.bindBitmap .raw (unpack bs w h) (bs.take (numBytes w h))).respond (.ok .nothing)) := by
  cases i with
  | quant o =>
    simp only [exec, execQuant] at h
    split at h <;> rw [answer_eq_next] at h
    · exact .inl ⟨_, by simp, h⟩
    · exact .inl ⟨_, pixOperand_error ‹_› _, h⟩
  | pack o =>
    simp only [exec, execPack] at h
    split at h <;> rw [answer_eq_next] at h
    · exact .inl ⟨_, by simp, h⟩
    · exact .inl ⟨_, binOperand_error ‹_› _, h⟩
  | unpack o w k =>
    simp only [exec, execUnpack] at h
    split at h <;> rw [answer_eq_next] at h
    · exact .inl ⟨_, by simp, h⟩
    · exact .inl ⟨_, rawOperand_error ‹_› _, h⟩
  | invert =>
    simp only [exec, execInvert] at h
    split at h
    · exact .inr (.inl ⟨rfl, ‹_›, (answer_eq_next _ _ _).1 h⟩)
    · exact .inl ⟨_, by simp, (refuse_eq_next _ _).1 h⟩
  | ldimg o =>
    simp only [exec, execLdimg] at h
    split at h <;> rw [answer_eq_next] at h
    · obtain ⟨rfl, hz⟩ := (pixOperand_eq_ok _ _ _).1 ‹_›
      exact .inr (.inr (.inl ⟨_, rfl, hz, h⟩))
    · exact .inl ⟨_, pixOperand_error ‹_› _, h⟩
  | ldraw o w k =>
    simp only [exec, execLdraw] at h
    split at h <;> rw [answer_eq_next] at h
    · obtain ⟨hw, hk, rfl, hz, hl⟩ := (rawOperand_eq_ok _ _ _ _ _).1 ‹_›
      exact .inr (.inr (.inr ⟨_, w, k, rfl, hw, hk, hz, hl, h⟩))
    · exact .inl ⟨_, rawOperand_error ‹_› _, h⟩
  | rdbit x y =>
    simp only [exec, execRdbit] at h
    split at h
    · exact .inl ⟨_, pixelInRange_error ‹_› _, (answer_eq_next _ _ _).1 h⟩
    · split at h
      · exact .inl ⟨_, by simp, (answer_eq_next _ _ _).1 h⟩
      · cases h
  | rdpix x y =>
    simp only [exec, execRdpix] at h
    split at h
    · exact .inl ⟨_, pixelInRange_error ‹_› _, (answer_eq_next _ _ _).1 h⟩
    · split at h
      · exact .inl ⟨_, by simp, (answer_eq_next _ _ _).1 h⟩
      · cases h
  | rdbyte k =>
    simp only [exec, execRdbyte] at h
    split at h
    · exact .inl ⟨_, byteInRange_error ‹_› _, (answer_eq_next _ _ _).1 h⟩
    · split at h
      · exact .inl ⟨_, by simp, (answer_eq_next _ _ _).1 h⟩
      · cases h

/-- What a step can do when it answers a next state: wait, reset, execute a decoded command, or refuse a reserved
opcode. -/
theorem step_cases {s t : State} (h : step s = .next t) :
    (s.inbox = [] ∧ t = s) ∨
    (∃ rest, s.inbox = .reset :: rest ∧ t = s.afterReset rest) ∨
    (∃ c rest i, s.inbox = .command c :: rest ∧ decode s.cfg c = .ok i ∧ exec i (s.accept rest) = .next t) ∨
    (∃ c rest b, s.inbox = .command c :: rest ∧ decode s.cfg c = .error (.reservedOpcode b) ∧
      t = (s.accept rest).respond .refused) := by
  unfold step at h
  split at h
  · cases h
    exact .inl ⟨‹_›, rfl⟩
  · cases h
    exact .inr (.inl ⟨_, ‹_›, rfl⟩)
  · split at h
    · exact .inr (.inr (.inl ⟨_, _, _, ‹_›, ‹_›, h⟩))
    · rename_i e he
      cases e with
      | reservedOpcode b => exact .inr (.inr (.inr ⟨_, _, b, ‹_›, he, (refuse_eq_next _ _).1 h⟩))
      | malformedOperand => cases h

end Sys2Proof.Machine
end

