-- ==== Sys2Proof/Laws/PerInstr.lean ====
section
/-! SUPPORT. One fact about every command as syntax, command by command: the low byte of its encoded word is the
opcode that the map of rule R53 gives its operation. -/

namespace Sys2Proof.Laws.EncodedOpcode

/-- Whatever the block's parameters, the opcode field of the encoded command selects the command's operation. -/
def Statement (i : Instr) : Prop :=
  ∀ p : Params, (Sys2Proof.encode p i).op = i.op.code

/-- The opcode field of an encoded word is the operation's opcode, whatever the arguments. -/
theorem op_encodeWord (p : Params) (o : Op) (a b : Nat) (d : OperandObject) :
    ({ word := encodeWord p o a b, opnd := d } : Command).op = o.code := by
  apply BitVec.eq_of_toNat_eq
  have h8 : (2 : Nat) ^ (8 + p.argw) = 2 ^ p.argw * 256 := by rw [Nat.add_comm, Nat.pow_add]
  have ho : o.code.toNat < 256 := o.code.isLt
  simp only [Command.op, encodeWord, BitVec.toNat_ofNat, h8, ← Nat.mul_assoc]
  omega

theorem quant (o : Operand) : Statement (.quant o) := fun p => op_encodeWord p _ _ _ _
theorem pack (o : Operand) : Statement (.pack o) := fun p => op_encodeWord p _ _ _ _
theorem unpack (o : Operand) (w h : Nat) : Statement (.unpack o w h) := fun p => op_encodeWord p _ _ _ _
theorem invert : Statement .invert := fun p => op_encodeWord p _ _ _ _
theorem ldimg (o : Operand) : Statement (.ldimg o) := fun p => op_encodeWord p _ _ _ _
theorem ldraw (o : Operand) (w h : Nat) : Statement (.ldraw o w h) := fun p => op_encodeWord p _ _ _ _
theorem rdbit (x y : Nat) : Statement (.rdbit x y) := fun p => op_encodeWord p _ _ _ _
theorem rdpix (x y : Nat) : Statement (.rdpix x y) := fun p => op_encodeWord p _ _ _ _
theorem rdbyte (i : Nat) : Statement (.rdbyte i) := fun p => op_encodeWord p _ _ _ _

end Sys2Proof.Laws.EncodedOpcode
end

