-- ==== Sys2Proof/Laws/Renderer.lean ====
section
/-! SUPPORT. When the Renderer is handed a Bitmap, and which (rules R13, R25). -/

namespace Sys2Proof.Machine

/-- The Renderer is handed a Bitmap exactly when one is bound, and then what the registers and stores hold. -/
theorem State.bitmap_eq_some (s : State) (b : Bitmap) :
    s.bitmap = some b ↔ s.valid = true ∧ b = { w := s.w, h := s.h, grid := s.grid, bits := s.bits.bytes } := by
  cases hv : s.valid <;> simp [State.bitmap, hv, eq_comm (a := b)]

theorem State.bitmap_eq_none (s : State) : s.bitmap = none ↔ s.valid = false := by
  cases hv : s.valid <;> simp [State.bitmap, hv]

end Sys2Proof.Machine
end

