-- ==== Sys2Proof/Machine/Listing.lean ====
section
/-! DEFINITION. The textual form of a command (rule R59): one command a line, the operand object by a name the
reader gives it, numbers in decimal. No state and no outcome depends on it. -/

namespace Sys2Proof.Machine

/-- The mnemonic (rule R53). -/
def mnemonic : Op → Text
  | .quant  => ['Q', 'U', 'A', 'N', 'T']
  | .pack   => ['P', 'A', 'C', 'K']
  | .unpack => ['U', 'N', 'P', 'A', 'C', 'K']
  | .invert => ['I', 'N', 'V', 'E', 'R', 'T']
  | .ldimg  => ['L', 'D', 'I', 'M', 'G']
  | .ldraw  => ['L', 'D', 'R', 'A', 'W']
  | .rdbit  => ['R', 'D', 'B', 'I', 'T']
  | .rdpix  => ['R', 'D', 'P', 'I', 'X']
  | .rdbyte => ['R', 'D', 'B', 'Y', 'T', 'E']

/-- A number in decimal. -/
def decimal (n : Nat) : Text := Nat.toDigits 10 n

/-- The operands of a command, after the mnemonic; `name` is what the reader calls its operand object. -/
def operandText (name : Text) : Instr → Text
  | .quant _      => [' '] ++ name
  | .pack _       => [' '] ++ name
  | .unpack _ w h => [' '] ++ name ++ [',', ' '] ++ decimal w ++ [',', ' '] ++ decimal h
  | .invert       => []
  | .ldimg _      => [' '] ++ name
  | .ldraw _ w h  => [' '] ++ name ++ [',', ' '] ++ decimal w ++ [',', ' '] ++ decimal h
  | .rdbit x y    => [' '] ++ decimal x ++ [',', ' '] ++ decimal y
  | .rdpix x y    => [' '] ++ decimal x ++ [',', ' '] ++ decimal y
  | .rdbyte i     => [' '] ++ decimal i

/-- A command's line of text (rule R59). -/
def listing (name : Text) (i : Instr) : Text := mnemonic i.op ++ operandText name i

end Sys2Proof.Machine
end

