-- ==== Sys2Proof/Tests/Slice0.lean ====
section
/-! SUPPORT. Small tests, each one step or one function, their expected results from spec/95_test_vectors.md and the
worked examples of the rules; a smoke test of each well-formedness check; a word of each command written out from its
encoding; and a witness for the hypotheses of each statement. -/

namespace Sys2Proof.Tests

open Sys2Proof Sys2Proof.Machine

/-! ### Helpers -/

/-- The next state of an answer, if it is one. -/
def nextOf : Answer → Option State
  | .next s => some s
  | _       => none

/-- The response of the next state of an answer. -/
def respOf (a : Answer) : Option Response := (nextOf a).bind State.resp

/-- What a decoding gives, if it accepts. -/
def accepted : Except DecodeError Instr → Option Instr
  | .ok i    => some i
  | .error _ => none

/-- Why a decoding rejects, if it does. -/
def rejected : Except DecodeError Instr → Option DecodeError
  | .ok _    => none
  | .error e => some e

/-- A rendering's text, if it succeeds. -/
def textOf : Except RenderError Text → Option Text
  | .ok t    => some t
  | .error _ => none

/-- The small parameters DIMW 4, LENW 8. -/
def small (z : Bool) : Params := { dimw := 4, lenw := 8, zeroDimFault := z }

/-- The 3 x 10 grid with G[x][y] = 1 iff (x + y) mod 3 = 0 (spec/95 2.3). -/
def g310 : Grid Bit := Grid.ofFn 3 10 fun x y => (x + y) % 3 == 0

/-- The state that LDIMG of that grid leaves (spec/95 2.5): BITS `49 02 24 01 92 00`. -/
def bound : State :=
  { State.reset with
    w := 3, h := 10, valid := true, grid := g310.cols,
    bits := Memory.ofBytes [0x49#8, 0x02#8, 0x24#8, 0x01#8, 0x92#8, 0x00#8] }

/-- The operand rawB of spec/95 P2. -/
def rawB : Operand := .rawBytes [0xA5#8, 0xFF#8, 0x3C#8, 0x02#8, 0x7E#8]

/-- The operand imgC of spec/95 P3, column by column. -/
def imgC : PixBuf :=
  .gray ⟨4, 3, [[32#8, 0#8, 128#8], [31#8, 200#8, 0#8], [255#8, 32#8, 31#8], [0#8, 31#8, 33#8]]⟩

/-- A state whose host sends this command. -/
def sent (c : Command) : State := State.reset.issue c

/-! ### Well-formedness: an ill-formed term for each check -/

theorem test_wf_accepts : (Instr.ldimg (.pixBuf (.bin g310))).wellFormed Params.reference = true := by decide
theorem test_wf_missing_column : (Instr.quant (.pixBuf (.bin ⟨2, 1, [[true]]⟩))).wellFormed (small true) = false := by decide
theorem test_wf_short_column : (Instr.pack (.pixBuf (.bin ⟨1, 2, [[true]]⟩))).wellFormed (small true) = false := by decide
theorem test_wf_gray_shape : (Instr.quant (.pixBuf (.gray ⟨1, 1, []⟩))).wellFormed (small true) = false := by decide
theorem test_wf_other_shape : (Instr.ldimg (.pixBuf (.other ⟨0, 0, [[7]]⟩))).wellFormed (small true) = false := by decide
theorem test_wf_wide_width :
    (Instr.pack (.pixBuf (.bin ⟨16, 0, List.replicate 16 []⟩))).wellFormed (small true) = false := by decide
theorem test_wf_tall_height :
    (Instr.pack (.pixBuf (.bin ⟨0, 16, []⟩))).wellFormed (small true) = false := by decide
theorem test_wf_long_raw :
    (Instr.ldraw (.rawBytes [1#8, 2#8]) 1 1).wellFormed { dimw := 4, lenw := 1, zeroDimFault := true } = false := by decide
theorem test_wf_unpack_width : (Instr.unpack .unrecognized 256 1).wellFormed (small true) = false := by decide
theorem test_wf_ldraw_height : (Instr.ldraw .unrecognized 1 256).wellFormed (small true) = false := by decide
theorem test_wf_rdbit_row : (Instr.rdbit 0 256).wellFormed (small true) = false := by decide
theorem test_wf_rdpix_column : (Instr.rdpix 256 0).wellFormed (small true) = false := by decide
theorem test_wf_rdbyte_index : (Instr.rdbyte 256).wellFormed (small true) = false := by decide

/-! ### Decoding: words of spec/95 section 3, DIMW = 16 -/

theorem test_decode_quant :
    accepted (decode Params.reference ⟨0x000000000000000001, ⟨1#2, 2#2, 1, 1, [[70000]], []⟩⟩) =
      some (.quant (.pixBuf (.other ⟨1, 1, [[70000]]⟩))) := by decide
theorem test_decode_pack :
    accepted (decode Params.reference ⟨0x000000000000000002, ⟨1#2, 1#2, 1, 2, [[1, 0]], []⟩⟩) =
      some (.pack (.pixBuf (.bin ⟨1, 2, [[true, false]]⟩))) := by decide
theorem test_decode_unpack :
    accepted (decode Params.reference ⟨0x000000030000000403, ⟨2#2, 0#2, 0, 0, [], [5#8]⟩⟩) =
      some (.unpack (.rawBytes [5#8]) 4 3) := by decide
theorem test_decode_invert :
    accepted (decode Params.reference ⟨0x000000000000000004, OperandObject.zero⟩) = some .invert := by decide
theorem test_decode_ldimg :
    accepted (decode Params.reference ⟨0x000000000000000005, ⟨1#2, 0#2, 1, 2, [[31, 32]], []⟩⟩) =
      some (.ldimg (.pixBuf (.gray ⟨1, 2, [[31#8, 32#8]]⟩))) := by decide
theorem test_decode_ldraw :
    accepted (decode Params.reference ⟨0x000000090000000206, ⟨2#2, 0#2, 0, 0, [], [0xA5#8]⟩⟩) =
      some (.ldraw (.rawBytes [0xA5#8]) 2 9) := by decide
theorem test_decode_rdbit :
    accepted (decode Params.reference ⟨0x000000080000000107, OperandObject.zero⟩) = some (.rdbit 1 8) := by decide
theorem test_decode_rdpix :
    accepted (decode Params.reference ⟨0x000000080000000108, OperandObject.zero⟩) = some (.rdpix 1 8) := by decide
theorem test_decode_rdbyte :
    accepted (decode Params.reference ⟨0x000000000000000309, OperandObject.zero⟩) = some (.rdbyte 3) := by decide

/-- DIMW = 4: arg0 is bits [15:8], arg1 bits [23:16]. -/
theorem test_decode_other_width :
    accepted (decode (small true) ⟨0x090207, OperandObject.zero⟩) = some (.rdbit 2 9) := by decide
theorem test_decode_zero_word :
    rejected (decode Params.reference ⟨0, OperandObject.zero⟩) = some (.reservedOpcode 0#8) := by decide
theorem test_decode_first_reserved :
    rejected (decode Params.reference ⟨0x10A, OperandObject.zero⟩) = some (.reservedOpcode 0x0A#8) := by decide
theorem test_decode_kind_three :
    accepted (decode Params.reference ⟨1, ⟨3#2, 0#2, 0, 0, [], []⟩⟩) = some (.quant .unrecognized) := by decide
theorem test_decode_mode_three :
    accepted (decode Params.reference ⟨1, ⟨1#2, 3#2, 0, 5, [], []⟩⟩) = some (.quant .reservedMode) := by decide
theorem test_decode_missing_cells :
    rejected (decode Params.reference ⟨5, ⟨1#2, 0#2, 2, 1, [[31]], []⟩⟩) = some .malformedOperand := by decide
theorem test_decode_wide_gray_cell :
    rejected (decode Params.reference ⟨5, ⟨1#2, 0#2, 1, 1, [[256]], []⟩⟩) = some .malformedOperand := by decide
theorem test_decode_long_raw :
    rejected (decode { dimw := 4, lenw := 1, zeroDimFault := true } ⟨6, ⟨2#2, 0#2, 0, 0, [], [1#8, 2#8]⟩⟩) =
      some .malformedOperand := by decide
theorem test_table_word : decodeTableWord 8 0x04 = some .invert := by decide

/-- The format column of rule R53, the origin tag of rule R14. -/
theorem test_formats : Op.all.map Op.format = [.o, .o, .od, .n, .o, .od, .xy, .xy, .i] := by decide
theorem test_origin_code : Origin.code .img = 0#1 ∧ Origin.code .raw = 1#1 := by decide

/-! ### The layout: spec/95 2.1, rule R45 -/

theorem test_pad_height : [0, 1, 7, 8, 9, 15, 16, 17, 64].map padHeight = [0, 8, 8, 8, 16, 16, 16, 24, 64] := by decide
theorem test_num_bytes : numBytes 3 10 = 6 ∧ numBytes 5 7 = 5 ∧ numBytes 96 16 = 192 ∧ numBytes 9 0 = 0 := by decide
theorem test_bit_index : bitIndex 2 9 10 = 41 ∧ bitIndex 1 8 9 = 24 ∧ bitIndex 5 3 8 = 43 ∧ bitIndex 0 16 17 = 16 := by decide

/-! ### The commands -/

theorem test_quant_threshold :
    respOf (exec (.quant (.pixBuf (.gray ⟨2, 1, [[31#8], [32#8]]⟩))) State.reset) =
      some (.ok (.grid ⟨2, 1, [[false], [true]]⟩)) := by decide
theorem test_quant_type_before_zero : respOf (exec (.quant .reservedMode) State.reset) = some (.error .typeError) := by decide
theorem test_pack_two_by_nine :
    respOf (exec (.pack (.pixBuf (.bin (Grid.ofFn 2 9 fun _ _ => true)))) State.reset) =
      some (.ok (.packed ⟨2, 9, [0xFF#8, 0x01#8, 0xFF#8, 0x01#8]⟩)) := by decide
theorem test_pack_three_by_ten : (pack g310).bits = [0x49#8, 0x02#8, 0x24#8, 0x01#8, 0x92#8, 0x00#8] := by decide
theorem test_unpack_padding_dropped :
    respOf (exec (.unpack (.rawBytes [0xA5#8, 0xFF#8, 0x3C#8, 0x02#8]) 4 5) State.reset) =
      some (.ok (.grid ⟨4, 5, [[true, false, true, false, false], [true, true, true, true, true],
        [false, false, true, true, true], [false, true, false, false, false]]⟩)) := by decide
theorem test_unpack_short :
    respOf (exec (.unpack (.rawBytes [0xA5#8, 0xFF#8, 0x3C#8, 0x02#8]) 9 2) State.reset) =
      some (.error .valueError) := by decide
theorem test_invert_padding :
    (nextOf (exec .invert bound)).map (fun t => t.bits.bytes) =
      some [0xB6#8, 0xFD#8, 0xDB#8, 0xFE#8, 0x6D#8, 0xFF#8] := by decide
theorem test_invert_grid :
    (nextOf (exec .invert bound)).map (fun t => t.grid.head?) =
      some (some [false, true, true, false, true, true, false, true, true, false]) := by decide
theorem test_ldimg_image :
    (nextOf (exec (.ldimg (.pixBuf imgC)) State.reset)).map (fun t => (t.w, t.h, t.origin, t.bits.bytes)) =
      some (4, 3, .img, [0x05#8, 0x02#8, 0x03#8, 0x04#8]) := by decide
theorem test_ldimg_raw_operand : respOf (exec (.ldimg rawB) bound) = some (.error .typeError) := by decide
theorem test_ldraw_verbatim :
    (nextOf (exec (.ldraw rawB 2 9) State.reset)).map (fun t => (t.origin, t.grid, t.bits.bytes)) =
      some (.raw, [[true, false, true, false, false, true, false, true, true],
        [false, false, true, true, true, true, false, false, false]],
        [0xA5#8, 0xFF#8, 0x3C#8, 0x02#8]) := by decide
theorem test_ldraw_wide_argument : respOf (exec (.ldraw rawB 65536 1) bound) = some .refused := by decide
theorem test_rdbit_last_row : respOf (exec (.rdbit 0 9) bound) = some (.ok (.bit true)) := by decide
theorem test_rdbit_padding_row : respOf (exec (.rdbit 0 10) bound) = some .refused := by decide
theorem test_rdpix_column_two : respOf (exec (.rdpix 2 7) bound) = some (.ok (.bit true)) := by decide
theorem test_rdpix_out_of_range : respOf (exec (.rdpix 3 0) bound) = some .refused := by decide
theorem test_rdbyte_four : respOf (exec (.rdbyte 4) bound) = some (.ok (.byte 0x92#8)) := by decide
theorem test_rdbyte_six : respOf (exec (.rdbyte 6) bound) = some .refused := by decide

/-! ### The step -/

theorem test_step_runs_rdbyte : respOf (step (bound.issue ⟨0x109, OperandObject.zero⟩)) = some (.ok (.byte 0x02#8)) := by decide
theorem test_step_reserved : respOf (step (State.reset.withFetchWord 8 0x00)) = some .refused := by decide
theorem test_step_table_word : respOf (step (State.reset.withFetchWord 8 0x01)) = some (.error .typeError) := by decide
theorem test_step_reset :
    nextOf (step { bound with inbox := [.reset] }) = some State.reset := by decide

/-! ### The datapaths and the host-side functions -/

theorem test_serializer :
    (serializerRun .shift ⟨2, 3, [[true, false, true], [false, true, false]]⟩ 16 serializerStart).out =
      [0x05#8, 0x02#8] := by decide
theorem test_deserializer :
    (deserializerRun [0xA5#8, 0xFF#8] 9 16 deserializerStart).cols =
      [[true, false, true, false, false, true, false, true, true]] := by decide
theorem test_carray_source_example :
    textOf (renderCArray [0x0A#8, 0x0B#8, 0x0C#8] ['\t'] 2) =
      some ['\t', '0', 'x', '0', 'A', ',', ' ', '0', 'x', '0', 'B', ',', '\n', '\t', '0', 'x', '0', 'C'] := by decide
theorem test_carray_line_width : textOf (renderCArray [0x01#8] ['\t'] (-1)) = none := by decide
theorem test_ascii_rows :
    textOf (renderAscii (small true) ⟨4, 3, [[true, false, true], [false, true, false], [true, true, false],
      [false, false, true]], [0x05#8, 0x02#8, 0x03#8, 0x04#8]⟩ true) =
      some ['#', ' ', '#', ' ', '\n', ' ', '#', '#', ' ', '\n', '#', ' ', ' ', '#', '\n'] := by decide
theorem test_ascii_zero_width : textOf (renderAscii (small true) ⟨0, 3, [], []⟩ true) = none := by decide
/-- No Bitmap is handed to the Renderer while VALID = 0, whatever the stores hold (rule R25). -/
theorem test_bitmap_unbound : ({ bound with valid := false } : State).bitmap = none ∧ bound.bitmap ≠ none := by decide
theorem test_listing :
    listing ['r', 'a', 'w', 'B'] (.ldraw rawB 2 9) =
      ['L', 'D', 'R', 'A', 'W', ' ', 'r', 'a', 'w', 'B', ',', ' ', '2', ',', ' ', '9'] := by decide

/-! ### Witnesses: the hypotheses of each statement hold together somewhere -/

theorem witness_bound_inv : bound.Inv ∧ bound.valid = true := by decide
theorem witness_bound_last_pixel : 2 < bound.w ∧ 9 < bound.h ∧ bound.StoresOk := by decide
theorem witness_bound_last_byte : 5 < bound.w * colBytes bound.h ∧ ¬ 6 < bound.w * colBytes bound.h := by decide
theorem witness_reset_unbound : State.reset.valid = false ∧ State.reset.inbox = [] ∧ State.reset.Inv := by decide
theorem witness_DecodeOfEncode : (Instr.ldraw rawB 2 9).wellFormed Params.reference = true := by decide
theorem witness_UnusedFields :
    Op.ofByte (⟨0x0104, OperandObject.zero⟩ : Command).op = some .invert ∧
    Op.ofByte (⟨0x9904, ⟨2#2, 0#2, 0, 0, [], []⟩⟩ : Command).op = some .invert := by decide
theorem witness_ReservedOpcodes :
    (sent ⟨0xFF, OperandObject.zero⟩).inbox = .command ⟨0xFF, OperandObject.zero⟩ :: [] ∧
    0x0A ≤ (⟨0xFF, OperandObject.zero⟩ : Command).op.toNat ∧
    Op.ofByte (⟨0x00, OperandObject.zero⟩ : Command).op = none := by decide
theorem witness_OperandTags_gray :
    (⟨1#2, 0#2, 1, 1, [[255]], []⟩ : OperandObject).rawGrid.wellFormed (small true) = true ∧
    (⟨1#2, 0#2, 1, 1, [[255]], []⟩ : OperandObject).cells8 = true := by decide
theorem witness_OperandTags_raw :
    (⟨2#2, 0#2, 0, 0, [], [1#8]⟩ : OperandObject).bytes.length < 2 ^ (small true).lenw := by decide
theorem witness_OperandTags_other :
    (⟨1#2, 2#2, 1, 1, [[70000]], []⟩ : OperandObject).rawGrid.wellFormed (small true) = true := by decide
theorem witness_StepRunsTheDecodedCommand :
    (sent ⟨4, OperandObject.zero⟩).inbox = .command ⟨4, OperandObject.zero⟩ :: [] ∧
    accepted (decode (sent ⟨4, OperandObject.zero⟩).cfg ⟨4, OperandObject.zero⟩) = some .invert := by decide
theorem witness_ResetEvent : ({ bound with inbox := [.reset] } : State).inbox = .reset :: [] := by decide
theorem witness_PaddingPartition :
    ((48 : Nat) - 1 < 3 * padHeight 10 ∧ IsPadding 10 47) ∧ 41 < 3 * padHeight 10 ∧ ¬ IsPadding 10 41 := by decide
theorem witness_zero_dimension :
    State.reset.cfg.zeroDimFault = true ∧ pixWidth (.bin ⟨0, 4, []⟩) = 0 ∧ pixHeight (.bin ⟨0, 4, []⟩) ≠ 0 := by decide
theorem witness_zero_dimension_allowed :
    ({ State.reset with cfg := small false } : State).cfg.zeroDimFault = false ∧
      (pack ⟨0, 4, []⟩).bits = [] := by decide
theorem witness_not_a_pixel_buffer : isPixBuf rawB = false ∧ isBinBuf (.pixBuf imgC) = false ∧
    isRawBytes (.pixBuf imgC) = false := by decide
theorem witness_image :
    imgC.wellFormed State.reset.cfg = true ∧ pixWidth imgC ≠ 0 ∧ pixHeight imgC ≠ 0 ∧ pixHeight imgC % 8 ≠ 0 := by decide
theorem witness_image_no_padding :
    (PixBuf.bin (Grid.ofFn 1 8 fun _ _ => true)).wellFormed State.reset.cfg = true ∧
      pixHeight (PixBuf.bin (Grid.ofFn 1 8 fun _ _ => true)) % 8 = 0 := by decide
theorem witness_shape : g310.shapeOk = true ∧ 2 < g310.w ∧ 9 < g310.h ∧ 1 < colBytes g310.h := by decide
theorem witness_raw_exact :
    2 * colBytes 9 ≤ [0xFF#8, 0x01#8, 0xFF#8, (0x01#8 : Byte)].length ∧ numBytes 2 9 = 4 ∧
      2 < 2 ^ State.reset.cfg.dimw ∧ 9 < 2 ^ State.reset.cfg.dimw := by decide
theorem witness_raw_short : [0xFF#8, 0x01#8, (0xFF#8 : Byte)].length < 2 * colBytes 9 := by decide
theorem witness_wide_argument : 2 ^ State.reset.cfg.dimw ≤ 65536 ∧ 65535 < 2 ^ State.reset.cfg.dimw := by decide
theorem witness_UnboundReadsNoStore : ({ bound with valid := false } : State).valid = false := by decide
theorem witness_PureCommands : bound.cfg = State.reset.cfg := by decide
theorem witness_issued_inv : (bound.issue ⟨4, OperandObject.zero⟩).Inv := by decide
theorem witness_InvertNoPadding :
    ((⟨small true, 1, 8, true, .img, [List.replicate 8 true], [(0, 0xFF#8)], [], none⟩ : State).StoresOk) ∧
    ([0xFF#8] : List Byte) = (pack ⟨1, 8, [List.replicate 8 true]⟩).bits := by decide
theorem witness_AsciiZero :
    (small false).zeroDimFault = false ∧ (⟨0, 3, [], []⟩ : Bitmap).shapeOk = true ∧
    (⟨2, 0, [[], []], []⟩ : Bitmap).shapeOk = true ∧ (small true).zeroDimFault = true := by decide
theorem witness_OperandTags_bin :
    (⟨1#2, 1#2, 1, 2, [[255, 0]], []⟩ : OperandObject).rawGrid.wellFormed (small true) = true ∧
    (⟨1#2, 1#2, 1, 2, [[255, 0]], []⟩ : OperandObject).cells8 = true ∧
    (⟨3#2, 0#2, 0, 0, [], []⟩ : OperandObject).kind = 3#2 := by decide
theorem witness_UnpackIgnores :
    numBytes 1 9 ≤ [0xFF#8, (0xFF#8 : Byte)].length ∧ numBytes 1 9 ≤ [0xFF#8, (0x01#8 : Byte)].length ∧
    ∀ k, k < 1 * padHeight 9 → ¬ IsPadding 9 k → seqBit [0xFF#8, 0xFF#8] k = seqBit [0xFF#8, 0x01#8] k := by decide
theorem witness_Deserializer : numBytes 1 9 ≤ [0xA5#8, (0xFF#8 : Byte)].length ∧ 1 ≤ 9 := by decide
theorem witness_ErrorsChangeNoState : (nextOf (exec (.rdbyte 6) bound)).isSome = true ∧
    respOf (exec (.rdbyte 6) bound) ≠ some (.ok .nothing) := by decide
theorem witness_frames :
    (nextOf (exec (.rdbit 0 0) bound)).isSome = true ∧ (nextOf (exec .invert bound)).isSome = true ∧
    (nextOf (exec (.ldraw rawB 2 9) bound)).isSome = true ∧
    (nextOf (exec (.ldimg (.pixBuf imgC)) bound)).isSome = true := by decide
theorem witness_step_next : bound.bits.wf ∧ (nextOf (step (bound.issue ⟨4, OperandObject.zero⟩))).isSome = true := by decide
theorem witness_ValidSet :
    (nextOf (step (State.reset.issue ⟨0x000000010000000106, ⟨2#2, 0#2, 0, 0, [], [1#8]⟩⟩))).map State.valid =
      some true := by decide
theorem witness_ValidCleared :
    (nextOf (step { bound with inbox := [.reset] })).map State.valid = some false := by decide
theorem witness_CArray : ([0x0A#8, (0x0B#8 : Byte)] ≠ []) ∧ [0x0A#8, (0x0B#8 : Byte)].length ≤ 2 ∧
    1 < [0x0A#8, (0x0B#8 : Byte)].length := by decide

end Sys2Proof.Tests
end

section
/-! What the decoder accepts is well-formed (rules R20, R50). -/

namespace Sys2Proof

theorem Grid.wellFormed_map {α β : Type} (p : Params) (f : α → β) (g : Grid α) :
    (g.map f).wellFormed p = g.wellFormed p := by
  simp only [Grid.wellFormed, Grid.shapeOk_map]
  rfl

/-- A pixel buffer is accepted with the reserved MODE, or after its grid has been found well-formed (rules R20, R55). -/
theorem decodePixBuf_wellFormed {p : Params} {o : OperandObject} {d : Operand}
    (h : decodePixBuf p o = .ok d) : d.wellFormed p = true := by
  unfold decodePixBuf at h
  by_cases hm : o.mode = 3#2
  · rw [if_pos hm] at h
    cases h
    rfl
  rw [if_neg hm] at h
  by_cases hg : o.rawGrid.wellFormed p = true
  · have hmap {α : Type} (f : Nat → α) : (o.rawGrid.map f).wellFormed p = true :=
      (Grid.wellFormed_map p f _).trans hg
    simp only [hg, Bool.not_true, Bool.false_eq_true, if_false] at h
    split at h
    · cases h
      exact hg
    · split at h
      · cases h
      · split at h <;> cases h <;> exact hmap _
  · simp [hg] at h

theorem decodeOperand_wellFormed {p : Params} {o : OperandObject} {d : Operand}
    (h : decodeOperand p o = .ok d) : d.wellFormed p = true := by
  unfold decodeOperand at h
  split at h
  · exact decodePixBuf_wellFormed h
  · split at h
    · split at h
      · cases h
        simpa [Operand.wellFormed]
      · cases h
    · cases h
      rfl

theorem withOperand_eq_ok {p : Params} {c : Command} {mk : Operand → Instr} {i : Instr}
    (h : withOperand p c mk = .ok i) : ∃ d, decodeOperand p c.opnd = .ok d ∧ i = mk d := by
  unfold withOperand at h
  split at h <;> cases h
  exact ⟨_, ‹_›, rfl⟩

/-- A field of ARGW bits read from the command word fits ARGW bits. -/
theorem Command.fitsArg_arg0 (p : Params) (c : Command) : p.fitsArg (c.arg0 p) = true :=
  decide_eq_true (Nat.mod_lt _ (Nat.two_pow_pos _))

theorem Command.fitsArg_arg1 (p : Params) (c : Command) : p.fitsArg (c.arg1 p) = true :=
  decide_eq_true (Nat.mod_lt _ (Nat.two_pow_pos _))

theorem decodeFields_wellFormed {p : Params} {c : Command} {o : Op} {i : Instr}
    (h : decodeFields p c o = .ok i) : i.wellFormed p = true := by
  have harg0 := c.fitsArg_arg0 p
  have harg1 := c.fitsArg_arg1 p
  cases o with
  | quant | pack | ldimg =>
    obtain ⟨d, hd, rfl⟩ := withOperand_eq_ok h
    exact decodeOperand_wellFormed hd
  | unpack | ldraw =>
    obtain ⟨d, hd, rfl⟩ := withOperand_eq_ok h
    simp [Instr.wellFormed, decodeOperand_wellFormed hd, harg0, harg1]
  | invert | rdbit | rdpix | rdbyte =>
    cases h
    simp [Instr.wellFormed, harg0, harg1]

theorem decode_wellFormed {p : Params} {c : Command} {i : Instr} (h : decode p c = .ok i) :
    i.wellFormed p = true := by
  unfold decode at h
  split at h
  · cases h
  · exact decodeFields_wellFormed h

/-- Settles O3: the decoder checks each operand object, and an argument is cut out of the word at its width. -/
theorem decodedCommandsAreWellFormed : Obligations.DecodedCommandsAreWellFormed :=
  fun _ _ _ h => decode_wellFormed h

end Sys2Proof
end

section
/-! The codec's functions, as the Bitmap invariant needs them: the length of the packed bytes and the bit at
each pixel's index (rules R80, R82, R90). -/

namespace Sys2Proof.Machine

/-- Byte index and bit position of a pixel (rule R33). -/
theorem bitIndex_div (x y h : Nat) : bitIndex x y h / 8 = x * colBytes h + y / 8 := by
  rw [bitIndex, padHeight_eq, Nat.mul_left_comm]
  omega

theorem bitIndex_mod (x y h : Nat) : bitIndex x y h % 8 = y % 8 := by
  rw [bitIndex, padHeight_eq, Nat.mul_left_comm]
  omega

theorem div_lt_colBytes {y h : Nat} (hy : y < h) : y / 8 < colBytes h := by
  unfold colBytes
  omega

/-- The byte that holds a pixel of a `w` by `h` Bitmap is one of its NB(w, h) bytes. -/
theorem bitIndex_div_lt_numBytes {x y w h : Nat} (hx : x < w) (hy : y < h) :
    bitIndex x y h / 8 < numBytes w h := by
  have hcol : (x + 1) * colBytes h ≤ w * colBytes h := Nat.mul_le_mul_right _ hx
  have hrow := div_lt_colBytes hy
  rw [Nat.add_one_mul] at hcol
  rw [bitIndex_div, numBytes_eq]
  omega

@[simp] theorem quantize_w (b : PixBuf) : (quantize b).w = pixWidth b := by cases b <;> rfl
@[simp] theorem quantize_h (b : PixBuf) : (quantize b).h = pixHeight b := by cases b <;> rfl

theorem length_pack_bits (g : Grid Bit) : (pack g).bits.length = numBytes g.w g.h := by
  rw [numBytes_eq]
  exact length_records _ _ (packByte g)

/-- The bit of the packed bytes at a pixel's index is the pixel (rule R80). -/
theorem seqBit_pack (g : Grid Bit) {x y : Nat} (hx : x < g.w) (hy : y < g.h) :
    seqBit (pack g).bits (bitIndex x y g.h) = some (g.white x y) := by
  have hbyte : (pack g).bits[x * colBytes g.h + y / 8]? = some (packByte g x (y / 8)) :=
    getElem?_records _ _ (packByte g) hx (div_lt_colBytes hy)
  have hrow : 8 * (y / 8) + y % 8 = y := Nat.div_add_mod y 8
  rw [seqBit, bitIndex_div, bitIndex_mod, hbyte, Option.map_some, packByte, byteBit_byteOf _ _ (by omega), hrow]
  simp [hy]

/-- A cell that exists is told by whether it is white. -/
theorem Grid.cell_eq_some_white {g : Grid Bit} (hg : g.shapeOk = true) {x y : Nat} (hx : x < g.w) (hy : y < g.h) :
    g.cell x y = some (g.white x y) := by
  obtain ⟨hw, hh⟩ := g.shapeOk_iff.1 hg
  obtain ⟨b, hb⟩ := Option.isSome_iff_exists.1 ((cellOf_isSome_iff hw hh x y).2 ⟨hx, hy⟩)
  have hcell : g.cell x y = some b := hb
  cases b <;> simp [Grid.white, hcell]

/-- Bit `k` of a byte sequence exists when its byte does (rule R32). -/
theorem seqBit_eq_some {bs : List Byte} {k : Nat} (hk : k / 8 < bs.length) :
    seqBit bs k = some (seqBit bs k == some true) := by
  simp only [seqBit, List.getElem?_eq_getElem hk, Option.map_some]
  cases byteBit bs[k / 8] (k % 8) <;> rfl

/-- A bit within the bytes that are kept reads as before. -/
theorem seqBit_take {bs : List Byte} {k n : Nat} (hk : k / 8 < n) : seqBit (bs.take n) k = seqBit bs k := by
  rw [seqBit, List.getElem?_take_of_lt hk, seqBit]

/-- Cell `(x, y)` of the unpacked grid is the bit at the pixel's index (rule R90). -/
theorem cell_unpack {bs : List Byte} {w h : Nat} (hl : numBytes w h ≤ bs.length) {x y : Nat} (hx : x < w)
    (hy : y < h) : (unpack bs w h).cell x y = seqBit bs (bitIndex x y h) := by
  have hk := bitIndex_div_lt_numBytes hx hy
  rw [seqBit_eq_some (by omega), unpack, Grid.cell_ofFn, if_pos ⟨hx, hy⟩]

end Sys2Proof.Machine
end

section
/-! The Bitmap invariant (rule R17), operation by operation, and then for every command and every step. -/

namespace Sys2Proof.Machine

/-- The zero-dimension check passes exactly for the dimensions that a bound Bitmap may have (rule R12). -/
theorem zeroDim_eq_false (p : Params) (w h : Nat) :
    zeroDim p w h = false ↔ (p.zeroDimFault = true → 1 ≤ w ∧ 1 ≤ h) := by
  cases hz : p.zeroDimFault <;> simp [zeroDim, hz, Nat.one_le_iff_ne_zero]

/-- The invariant says nothing of the response channel. -/
theorem State.respond_inv {s : State} (hs : s.Inv) (r : Response) : (s.respond r).Inv := hs

/-- The invariant says nothing of what the host still sends. -/
theorem State.accept_inv {s : State} (hs : s.Inv) (rest : List HostEvent) : (s.accept rest).Inv := hs

/-- With no cell, no byte and no dimension there is nothing to disagree on. -/
theorem State.afterReset_inv {s : State} (hs : s.cfg.Ok) (rest : List HostEvent) : (s.afterReset rest).Inv := by
  have hdim : 0 < 2 ^ s.cfg.dimw := Nat.two_pow_pos _
  have hbytes : numBytes 0 0 = 0 := by decide
  refine ⟨hs, ⟨hdim, hdim, fun _ => ⟨rfl, rfl⟩, nofun⟩, ⟨rfl, nofun, ?_⟩, fun x hx => absurd hx x.not_lt_zero⟩
  simp [hbytes]

/-- Complementing both stores keeps their sizes, and their agreement since each bit and cell is negated (rule R114). -/
theorem State.complement_inv {s : State} (hs : s.Inv) : s.complement.Inv := by
  obtain ⟨hcfg, hdims, ⟨hw, hh, hbits⟩, hagree⟩ := hs
  refine ⟨hcfg, hdims, ⟨?_, ?_, ?_⟩, fun x hx y hy => ?_⟩
  · simpa using hw
  · simpa using hh
  · simpa [Memory.map_fst_complement] using hbits
  · have hpixel : s.bits.bit (bitIndex x y s.h) = cellOf s.grid x y := hagree x hx y hy
    simp [State.cell, Memory.bit_complement, cellOf_map, hpixel]

/-- A bound Bitmap meets the invariant when its dimensions are allowed, its grid has its cells, and its bytes are as
many as the dimensions say and hold the grid's pixels. -/
theorem State.bindBitmap_inv {s : State} {o : Origin} {g : Grid Bit} {bs : List Byte} (hcfg : s.cfg.Ok)
    (hw : g.w < 2 ^ s.cfg.dimw) (hh : g.h < 2 ^ s.cfg.dimw) (hz : zeroDim s.cfg g.w g.h = false)
    (hg : g.shapeOk = true) (hl : bs.length = numBytes g.w g.h)
    (hpix : ∀ x < g.w, ∀ y < g.h, seqBit bs (bitIndex x y g.h) = g.cell x y) : (s.bindBitmap o g bs).Inv := by
  obtain ⟨hcols, hrows⟩ := g.shapeOk_iff.1 hg
  refine ⟨hcfg, ⟨hw, hh, nofun, fun _ => (zeroDim_eq_false ..).1 hz⟩, ⟨hcols, hrows, ?_⟩, fun x hx y hy => ?_⟩
  · rw [bindBitmap_bits, Memory.map_fst_ofBytes, hl, bindBitmap_w, bindBitmap_h]
  · rw [bindBitmap_bits, Memory.bit_ofBytes]
    exact hpix x hx y hy

/-- The dimensions of a pixel buffer that can stand on the channel fit their registers (rule R20). -/
theorem PixBuf.dims_lt {p : Params} {b : PixBuf} (hb : b.wellFormed p = true) :
    pixWidth b < 2 ^ p.dimw ∧ pixHeight b < 2 ^ p.dimw := by
  cases b <;> simp_all [PixBuf.wellFormed, Grid.wellFormed, Params.fitsDim, pixWidth, pixHeight]

/-- What LDIMG binds meets the invariant: the bits are the packed grid (rule R110). -/
theorem ldimg_inv {s : State} (hcfg : s.cfg.Ok) {b : PixBuf} (hb : b.wellFormed s.cfg = true)
    (hz : zeroDim s.cfg (pixWidth b) (pixHeight b) = false) :
    (s.bindBitmap .img (quantize b) (pack (quantize b)).bits).Inv := by
  obtain ⟨hw, hh⟩ := PixBuf.dims_lt hb
  have hg := quantize_shapeOk s.cfg b hb
  refine State.bindBitmap_inv hcfg (by simpa) (by simpa) (by simpa) hg (length_pack_bits _) fun x hx y hy => ?_
  rw [seqBit_pack _ hx hy, Grid.cell_eq_some_white hg hx hy]

/-- What LDRAW binds meets the invariant: the grid is unpacked from the bytes that are kept (rule R111). -/
theorem ldraw_inv {s : State} (hcfg : s.cfg.Ok) {bs : List Byte} {w h : Nat} (hw : w < 2 ^ s.cfg.dimw)
    (hh : h < 2 ^ s.cfg.dimw) (hz : zeroDim s.cfg w h = false) (hl : numBytes w h ≤ bs.length) :
    (s.bindBitmap .raw (unpack bs w h) (bs.take (numBytes w h))).Inv := by
  refine State.bindBitmap_inv hcfg hw hh hz (unpack_shapeOk ..) (List.length_take_of_le hl) fun x hx y hy => ?_
  rw [unpack_w] at hx
  rw [unpack_h] at hy ⊢
  rw [seqBit_take (bitIndex_div_lt_numBytes hx hy), cell_unpack hl hx hy]

/-- A well-formed command keeps the invariant. -/
theorem exec_inv {i : Instr} {s t : State} (hs : s.Inv) (hi : i.wellFormed s.cfg = true)
    (h : exec i s = .next t) : t.Inv := by
  obtain ⟨r, -, rfl⟩ | ⟨-, -, rfl⟩ | ⟨b, rfl, hz, rfl⟩ | ⟨bs, w, k, -, hw, hk, hz, hl, rfl⟩ := exec_cases h
  · exact State.respond_inv hs r
  · exact State.respond_inv (State.complement_inv hs) _
  · exact State.respond_inv (ldimg_inv hs.1 hi hz) _
  · exact State.respond_inv (ldraw_inv hs.1 hw hk hz hl) _

/-- Settles O44: a step waits, resets, refuses, or runs a command that the decoder has found well-formed. -/
theorem stepKeepsTheInvariant : Obligations.StepKeepsTheInvariant := by
  intro s t hs h
  obtain ⟨-, rfl⟩ | ⟨rest, -, rfl⟩ | ⟨c, rest, i, -, hd, he⟩ | ⟨c, rest, -, -, -, rfl⟩ := step_cases h
  · exact hs
  · exact State.afterReset_inv hs.1 rest
  · exact exec_inv (State.accept_inv hs rest) (decode_wellFormed hd) he
  · exact State.respond_inv (State.accept_inv hs rest) _

/-- Settles O43: the state after reset is what the reset event leaves, with parameters that are allowed. -/
theorem resetStateMeetsTheInvariant : Obligations.ResetStateMeetsTheInvariant :=
  State.afterReset_inv (s := State.reset) (by decide) []

end Sys2Proof.Machine
end

section
/-! Frames: what a command leaves unchanged (rules R12, R16, R18), read off `exec_cases`. -/

namespace Sys2Proof.Machine

theorem State.respond_sameBitmap (r : Response) (s : State) : SameBitmap s (s.respond r) :=
  ⟨rfl, rfl, rfl, rfl, rfl, rfl⟩

/-- No command changes the parameters or what the host still sends. -/
theorem exec_sameChannel {i : Instr} {s t : State} (h : exec i s = .next t) : SameChannel s t := by
  obtain ⟨r, -, rfl⟩ | ⟨-, -, rfl⟩ | ⟨b, -, -, rfl⟩ | ⟨bs, w, k, -, -, -, -, -, rfl⟩ := exec_cases h <;>
    exact ⟨rfl, rfl⟩

/-- Settles O39: of what a command can do, a reading command only responds. -/
theorem readingCommandsKeepTheBitmap : Obligations.ReadingCommandsKeepTheBitmap := by
  intro i s t hi h
  obtain ⟨r, -, rfl⟩ | ⟨rfl, -, -⟩ | ⟨b, rfl, -, -⟩ | ⟨bs, w, k, rfl, -, -, -, -, -⟩ := exec_cases h
  · exact ⟨s.respond_sameBitmap r, ⟨rfl, rfl⟩, fun _ => rfl⟩
  all_goals simp at hi

/-- A byte sequence has no byte from its length on, and so neither has its store. -/
theorem Memory.read_ofBytes_eq_none {bs : List Byte} {a : Nat} (h : bs.length ≤ a) :
    (Memory.ofBytes bs).read a = none := by
  rw [Memory.read_ofBytes, List.getElem?_eq_none h]

/-- A command that ended with the empty OK and is no INVERT has bound a Bitmap, and no byte exists beyond it. -/
theorem read_eq_none_of_bound {i : Instr} {s t : State} (h : exec i s = .next t) (hi : i ≠ .invert)
    (hok : t.resp = some (.ok .nothing)) (a : Nat) (ha : numBytes t.w t.h ≤ a) : t.bits.read a = none := by
  obtain ⟨r, hr, rfl⟩ | ⟨hinv, -, -⟩ | ⟨b, -, -, rfl⟩ | ⟨bs, w, k, -, -, -, -, hl, rfl⟩ := exec_cases h
  · exact absurd (Option.some.inj hok) hr
  · exact absurd hinv hi
  · exact Memory.read_ofBytes_eq_none ((length_pack_bits _).trans_le ha)
  · exact Memory.read_ofBytes_eq_none ((List.length_take_of_le hl).trans_le ha)

/-- INVERT writes the two stores only, and gives no address a byte that had none. -/
theorem exec_invert_frame {s t : State} (h : exec .invert s = .next t) :
    t.w = s.w ∧ t.h = s.h ∧ t.valid = s.valid ∧ t.origin = s.origin ∧
      ∀ a, s.bits.read a = none → t.bits.read a = none := by
  obtain ⟨r, -, rfl⟩ | ⟨-, -, rfl⟩ | ⟨b, hb, -⟩ | ⟨bs, w, k, hr, -⟩ := exec_cases h
  · exact ⟨rfl, rfl, rfl, rfl, fun _ ha => ha⟩
  · exact ⟨rfl, rfl, rfl, rfl, fun a ha => by simp [Memory.read_complement, ha]⟩
  · cases hb
  · cases hr

/-- Settles O40, from what no command changes, what a bound store holds, and the frame of INVERT. -/
theorem writingCommandsKeepTheRest : Obligations.WritingCommandsKeepTheRest := by
  refine ⟨fun o s t h => ?_, fun o w k s t h => ?_, fun s t h => ?_⟩
  · exact ⟨exec_sameChannel h, read_eq_none_of_bound h nofun⟩
  · exact ⟨exec_sameChannel h, read_eq_none_of_bound h nofun⟩
  · obtain ⟨hw, hh, hv, ho, hbits⟩ := exec_invert_frame h
    exact ⟨hw, hh, hv, ho, exec_sameChannel h, hbits⟩

/-- Settles O41: a response alone leaves the Bitmap, INVERT leaves the registers, and the rest is LDIMG and LDRAW. -/
theorem onlyThreeCommandsWriteTheBitmap : Obligations.OnlyThreeCommandsWriteTheBitmap := by
  intro i s t h
  obtain ⟨r, -, rfl⟩ | ⟨rfl, -, rfl⟩ | ⟨b, rfl, -, rfl⟩ | ⟨bs, w, k, rfl, -, -, -, -, rfl⟩ := exec_cases h
  · exact ⟨fun hne => absurd (s.respond_sameBitmap r) hne, fun hne => by simp at hne⟩
  · exact ⟨fun _ => ⟨rfl, .inl rfl⟩, fun hne => by simp at hne⟩
  · exact ⟨fun _ => ⟨rfl, .inr (.inl ⟨_, rfl⟩)⟩, fun _ => ⟨rfl, .inl ⟨_, rfl⟩⟩⟩
  · exact ⟨fun _ => ⟨rfl, .inr (.inr ⟨_, _, _, rfl⟩)⟩, fun _ => ⟨rfl, .inr ⟨_, _, _, rfl⟩⟩⟩

end Sys2Proof.Machine
end

section
/-! The step runs the decoded command (rules R22, R42), and what commands do while VALID = 0 (rules R25, R116). -/

namespace Sys2Proof.Machine

/-- With a decodable command at the head of the inbox, the step is that command on the state without it. -/
theorem step_of_decode {s : State} {c : Command} {rest : List HostEvent} {i : Instr}
    (hin : s.inbox = .command c :: rest) (hd : decode s.cfg c = .ok i) : step s = exec i (s.accept rest) := by
  simp [step, hin, hd]

/-- Settles O8: taking the command from the inbox is `State.accept`. -/
theorem stepRunsTheDecodedCommand : Obligations.StepRunsTheDecodedCommand :=
  fun _ _ _ _ hin hd => step_of_decode hin hd

section
variable {s : State} (hv : s.valid = false)
include hv

theorem exec_invert_unbound : exec .invert s = refuse s := by simp [exec, execInvert, hv]

theorem pixelInRange_unbound (x y : Nat) : pixelInRange s x y = .error .refused := by simp [pixelInRange, hv]

theorem byteInRange_unbound (k : Nat) : byteInRange s k = .error .refused := by simp [byteInRange, hv]

theorem exec_rdbit_unbound (x y : Nat) : exec (.rdbit x y) s = refuse s := by
  simp only [exec, execRdbit, pixelInRange_unbound hv]
  rfl

theorem exec_rdpix_unbound (x y : Nat) : exec (.rdpix x y) s = refuse s := by
  simp only [exec, execRdpix, pixelInRange_unbound hv]
  rfl

theorem exec_rdbyte_unbound (k : Nat) : exec (.rdbyte k) s = refuse s := by
  simp only [exec, execRdbyte, byteInRange_unbound hv]
  rfl

end

/-- Settles O11: the fields of the reset state, and the four refusals while VALID = 0. -/
theorem resetStateIsUnbound : Obligations.ResetStateIsUnbound := by
  refine ⟨rfl, rfl, rfl, rfl, fun s hv i hi => ?_⟩
  obtain rfl | ⟨x, y, rfl⟩ | ⟨x, y, rfl⟩ | ⟨k, rfl⟩ := hi
  · exact exec_invert_unbound hv
  · exact exec_rdbit_unbound hv x y
  · exact exec_rdpix_unbound hv x y
  · exact exec_rdbyte_unbound hv k

/-- Two unbound blocks of the same parameters answer a command alike: both give the same response and nothing else,
or both bind the same Bitmap. -/
theorem exec_unbound_alike (i : Instr) {s s' : State} (hcfg : s'.cfg = s.cfg) (hv : s.valid = false)
    (hv' : s'.valid = false) :
    (∃ r, exec i s = answer r s ∧ exec i s' = answer r s') ∨
    (∃ r o g bs, exec i s = answer r (s.bindBitmap o g bs) ∧ exec i s' = answer r (s'.bindBitmap o g bs)) := by
  cases i with
  | quant o =>
    simp only [exec, execQuant, hcfg]
    cases pixOperand s.cfg o <;> exact .inl ⟨_, rfl, rfl⟩
  | pack o =>
    simp only [exec, execPack, hcfg]
    cases binOperand s.cfg o <;> exact .inl ⟨_, rfl, rfl⟩
  | unpack o w h =>
    simp only [exec, execUnpack, hcfg]
    cases rawOperand s.cfg o w h <;> exact .inl ⟨_, rfl, rfl⟩
  | ldimg o =>
    simp only [exec, execLdimg, hcfg]
    cases pixOperand s.cfg o
    · exact .inl ⟨_, rfl, rfl⟩
    · exact .inr ⟨_, _, _, _, rfl, rfl⟩
  | ldraw o w h =>
    simp only [exec, execLdraw, hcfg]
    cases rawOperand s.cfg o w h
    · exact .inl ⟨_, rfl, rfl⟩
    · exact .inr ⟨_, _, _, _, rfl, rfl⟩
  | invert => exact .inl ⟨_, exec_invert_unbound hv, exec_invert_unbound hv'⟩
  | rdbit x y => exact .inl ⟨_, exec_rdbit_unbound hv x y, exec_rdbit_unbound hv' x y⟩
  | rdpix x y => exact .inl ⟨_, exec_rdpix_unbound hv x y, exec_rdpix_unbound hv' x y⟩
  | rdbyte k => exact .inl ⟨_, exec_rdbyte_unbound hv k, exec_rdbyte_unbound hv' k⟩

/-- Settles O53: a response leaves the three fields as they were, and a Bitmap that is bound overwrites all three. -/
theorem unboundBlockReadsNoStore : Obligations.UnboundBlockReadsNoStore := by
  intro s o g m hv
  refine ⟨fun i => ?_, s.bitmap_eq_none.2 hv, (State.bitmap_eq_none _).2 hv⟩
  obtain ⟨r, hs, hs'⟩ | ⟨r, o', g', bs, hs, hs'⟩ :=
    exec_unbound_alike i (s := s) (s' := { s with origin := o, grid := g, bits := m }) rfl hv hv
  · exact ⟨_, _, hs, hs', rfl, fun _ => rfl, fun ht => absurd (hv.symm.trans ht) nofun⟩
  · exact ⟨_, _, hs, hs', rfl, nofun, fun _ => rfl⟩

end Sys2Proof.Machine
end

section
/-! The layout: a bit index is cut into byte and bit, and into column and row (rules R30, R33, R34). -/

namespace Sys2Proof.Machine

/-- Settles O12: a column begins at a byte boundary, so byte and bit come from `x` and `y` as `bitIndex_div` and
`bitIndex_mod` say. -/
theorem pixelAddressSplitsIntoByteAndBit : Obligations.PixelAddressSplitsIntoByteAndBit :=
  fun x y h => ⟨rfl, bitIndex_div x y h, bitIndex_mod x y h⟩

/-- Division by the pad height finds the pixel's column again, since its row lies below the pad height. -/
theorem bitIndex_div_padHeight (x : Nat) {y h : Nat} (hy : y < h) : bitIndex x y h / padHeight h = x := by
  have hrow : y < padHeight h := hy.trans_le (le_padHeight h)
  rw [bitIndex, Nat.mul_comm, Nat.mul_add_div (Nat.zero_lt_of_lt hrow), Nat.div_eq_of_lt hrow, Nat.add_zero]

/-- The remainder is the pixel's row. -/
theorem bitIndex_mod_padHeight (x : Nat) {y h : Nat} (hy : y < h) : bitIndex x y h % padHeight h = y :=
  (Nat.mul_add_mod' ..).trans (Nat.mod_eq_of_lt (hy.trans_le (le_padHeight h)))

/-- Every bit index is that of its own column and row. -/
theorem bitIndex_div_mod (h k : Nat) : bitIndex (k / padHeight h) (k % padHeight h) h = k :=
  Nat.div_add_mod' k (padHeight h)

/-- A bit index of a `w` wide Bitmap is a pixel's exactly when it is no padding bit (rule R34). -/
theorem exists_bitIndex_iff_not_isPadding {w h k : Nat} (hk : k < w * padHeight h) :
    (∃ x y, x < w ∧ y < h ∧ k = bitIndex x y h) ↔ ¬ IsPadding h k := by
  rw [IsPadding, Nat.not_le]
  constructor
  · rintro ⟨x, y, -, hy, rfl⟩
    rwa [bitIndex_mod_padHeight x hy]
  · intro hrow
    have hcol : k / padHeight h < w := Nat.div_lt_of_lt_mul (by rwa [Nat.mul_comm])
    exact ⟨_, _, hcol, hrow, (bitIndex_div_mod h k).symm⟩

/-- Two pixels of one bit index are the same pixel (rule R30). -/
theorem bitIndex_inj {x y x' y' h : Nat} (hy : y < h) (hy' : y' < h) (heq : bitIndex x y h = bitIndex x' y' h) :
    x = x' ∧ y = y' := by
  have hcol := congrArg (· / padHeight h) heq
  have hrow := congrArg (· % padHeight h) heq
  simp only [bitIndex_div_padHeight _ hy, bitIndex_div_padHeight _ hy'] at hcol
  simp only [bitIndex_mod_padHeight _ hy, bitIndex_mod_padHeight _ hy'] at hrow
  exact ⟨hcol, hrow⟩

/-- Settles O13: quotient and remainder by the pad height are column and row, and the pad height is the next multiple
of 8. -/
theorem pixelsAndPaddingPartitionTheBits : Obligations.PixelsAndPaddingPartitionTheBits := by
  refine ⟨fun w h k hk => exists_bitIndex_iff_not_isPadding hk, fun x y x' y' h => bitIndex_inj, fun h => ?_⟩
  have hpad := padHeight_lt h
  exact ⟨le_padHeight h, by omega⟩

end Sys2Proof.Machine
end

section
/-! What the decoder makes of each operand object, by its tags (rules R20, R55, R57). -/

namespace Sys2Proof

variable {p : Params} {o : OperandObject}

theorem decodeOperand_unrecognized (hk : o.kind = 0#2 ∨ o.kind = 3#2) : decodeOperand p o = .ok .unrecognized := by
  obtain hk | hk := hk <;> simp [decodeOperand, hk]

theorem decodeOperand_rawBytes (hk : o.kind = 2#2) (hl : o.bytes.length < 2 ^ p.lenw) :
    decodeOperand p o = .ok (.rawBytes o.bytes) := by
  simp [decodeOperand, hk, hl]

theorem decodeOperand_reservedMode (hk : o.kind = 1#2) (hm : o.mode = 3#2) :
    decodeOperand p o = .ok .reservedMode := by
  simp [decodeOperand, decodePixBuf, hk, hm]

theorem decodeOperand_other (hk : o.kind = 1#2) (hm : o.mode = 2#2) (hg : o.rawGrid.wellFormed p = true) :
    decodeOperand p o = .ok (.pixBuf (.other o.rawGrid)) := by
  simp [decodeOperand, decodePixBuf, hk, hm, hg]

theorem decodeOperand_gray (hk : o.kind = 1#2) (hm : o.mode = 0#2) (hg : o.rawGrid.wellFormed p = true)
    (hc : o.cells8 = true) : decodeOperand p o = .ok (.pixBuf (.gray (o.rawGrid.map (BitVec.ofNat 8)))) := by
  simp [decodeOperand, decodePixBuf, hk, hm, hg, hc]

theorem decodeOperand_bin (hk : o.kind = 1#2) (hm : o.mode = 1#2) (hg : o.rawGrid.wellFormed p = true)
    (hc : o.cells8 = true) : decodeOperand p o = .ok (.pixBuf (.bin (o.rawGrid.map bitOfPixel))) := by
  simp [decodeOperand, decodePixBuf, hk, hm, hg, hc]

/-- The 8-bit form of a binary cell is white exactly when it is not 0 (rule R57). -/
theorem bitOfPixel_eq : bitOfPixel = fun n => decide (n ≠ 0) := by
  funext n
  cases n <;> rfl

end Sys2Proof

namespace Sys2Proof.Machine

/-- Where a pixel buffer is required, one of the reserved MODE is answered TypeErrorKind (rules R55, R75, R110). -/
theorem exec_quant_reservedMode (s : State) : exec (.quant .reservedMode) s = raise .typeError s := rfl

theorem exec_ldimg_reservedMode (s : State) : exec (.ldimg .reservedMode) s = raise .typeError s := rfl

/-- Settles O6: the decoder's rule for each KIND and MODE, and the TypeErrorKind of QUANT and LDIMG. -/
theorem operandTagsDecode : Obligations.OperandTagsDecode := by
  refine ⟨fun p o => decodeOperand_unrecognized, fun p o => decodeOperand_rawBytes,
    fun p o => decodeOperand_reservedMode,
    fun p o hk hg hc => ⟨fun hm => decodeOperand_gray hk hm hg hc, fun hm => ?_⟩,
    fun p o hk hg hm => decodeOperand_other hk hm hg,
    fun s => ⟨exec_quant_reservedMode s, exec_ldimg_reservedMode s⟩⟩
  rw [← bitOfPixel_eq]
  exact decodeOperand_bin hk hm hg hc

end Sys2Proof.Machine
end

section
/-! Decoding undoes encoding: the operand object by its tags and cells, the word by its fields (rules R50 to R57). -/

namespace Sys2Proof

theorem Grid.map_map {α β γ : Type} (f : α → β) (k : β → γ) (g : Grid α) : (g.map f).map k = g.map (k ∘ f) := by
  simp [Grid.map, Function.comp_def]

theorem Grid.map_id {α : Type} (g : Grid α) : g.map id = g := by
  simp [Grid.map]

theorem bitOfPixel_comp_pixelOfBit : bitOfPixel ∘ pixelOfBit = id := by
  funext b
  cases b <;> rfl

theorem ofNat_comp_toNat : BitVec.ofNat 8 ∘ BitVec.toNat = id := by
  funext v
  simp

section
variable {α : Type} (mode : BitVec 2) (f : α → Nat) (g : Grid α)

theorem rawGrid_encodeGrid : (encodeGrid mode f g).rawGrid = g.map f := rfl

theorem cells8_encodeGrid (hf : ∀ v, f v < 256) : (encodeGrid mode f g).cells8 = true := by
  simp [OperandObject.cells8, encodeGrid, Grid.map, hf]

theorem wellFormed_rawGrid_encodeGrid {p : Params} (hg : g.wellFormed p = true) :
    (encodeGrid mode f g).rawGrid.wellFormed p = true :=
  (Grid.wellFormed_map p f g).trans hg

end

theorem pixelOfBit_lt (b : Bit) : pixelOfBit b < 256 := by cases b <;> decide

/-- A pixel buffer is decoded by the MODE that the encoder gave it, and each cell's form on the channel is undone. -/
theorem decodeOperand_encodeOperand_pixBuf {p : Params} {b : PixBuf} (hb : b.wellFormed p = true) :
    decodeOperand p (encodeOperand (.pixBuf b)) = .ok (.pixBuf b) := by
  cases b with
  | gray g =>
    refine (decodeOperand_gray rfl rfl (wellFormed_rawGrid_encodeGrid _ _ _ hb)
      (cells8_encodeGrid _ _ _ BitVec.isLt)).trans ?_
    rw [rawGrid_encodeGrid, Grid.map_map, ofNat_comp_toNat, Grid.map_id]
  | bin g =>
    refine (decodeOperand_bin rfl rfl (wellFormed_rawGrid_encodeGrid _ _ _ hb)
      (cells8_encodeGrid _ _ _ pixelOfBit_lt)).trans ?_
    rw [rawGrid_encodeGrid, Grid.map_map, bitOfPixel_comp_pixelOfBit, Grid.map_id]
  | other g =>
    refine (decodeOperand_other rfl rfl (wellFormed_rawGrid_encodeGrid _ _ _ hb)).trans ?_
    rw [rawGrid_encodeGrid, Grid.map_id]

theorem decodeOperand_encodeOperand {p : Params} {d : Operand} (hd : d.wellFormed p = true) :
    decodeOperand p (encodeOperand d) = .ok d := by
  cases d with
  | unrecognized => exact decodeOperand_unrecognized (.inl rfl)
  | reservedMode => exact decodeOperand_reservedMode rfl rfl
  | pixBuf b => exact decodeOperand_encodeOperand_pixBuf hd
  | rawBytes bs => exact decodeOperand_rawBytes rfl (of_decide_eq_true hd)

/-- arg0 lies above the opcode byte, which is below 2^8, and arg1's multiple of 2^ARGW is cut off. -/
theorem arg0_encodeWord {p : Params} {a : Nat} (ha : p.fitsArg a = true) (o : Op) (b : Nat) (d : OperandObject) :
    ({ word := encodeWord p o a b, opnd := d } : Command).arg0 p = a := by
  have ha : a < 2 ^ p.argw := of_decide_eq_true ha
  have hcode : o.code.toNat < 2 ^ 8 := o.code.isLt
  have hword : encodeWord p o a b = o.code.toNat + 2 ^ 8 * (a + b * 2 ^ p.argw) := by
    rw [encodeWord, Nat.pow_add]
    ring
  rw [Command.arg0, hword, Nat.add_mul_div_left _ _ (by decide), Nat.div_eq_of_lt hcode, Nat.zero_add,
    Nat.add_mul_mod_self_right, Nat.mod_eq_of_lt ha]

/-- arg1 lies above the opcode byte and arg0, which together are below 2^(8 + ARGW). -/
theorem arg1_encodeWord {p : Params} {a b : Nat} (ha : p.fitsArg a = true) (hb : p.fitsArg b = true) (o : Op)
    (d : OperandObject) : ({ word := encodeWord p o a b, opnd := d } : Command).arg1 p = b := by
  have ha : a < 2 ^ p.argw := of_decide_eq_true ha
  have hb : b < 2 ^ p.argw := of_decide_eq_true hb
  have hcode : o.code.toNat < 2 ^ 8 := o.code.isLt
  have hlow : o.code.toNat + a * 2 ^ 8 < 2 ^ (8 + p.argw) := by
    rw [Nat.pow_add]
    omega
  rw [Command.arg1, encodeWord, Nat.add_mul_div_right _ _ (Nat.two_pow_pos _), Nat.div_eq_of_lt hlow, Nat.zero_add,
    Nat.mod_eq_of_lt hb]

/-- The opcode field of every encoded command is its operation's opcode. -/
theorem op_encode (p : Params) (i : Instr) : (encode p i).op = i.op.code := by
  cases i <;> exact Laws.EncodedOpcode.op_encodeWord ..

/-- The nine opcodes differ, so each selects its own operation (rule R53). -/
theorem Op.ofByte_code (o : Op) : Op.ofByte o.code = some o := by cases o <;> rfl

theorem decode_of_ofByte {p : Params} {c : Command} {o : Op} (h : Op.ofByte c.op = some o) :
    decode p c = decodeFields p c o := by
  rw [decode, h]

theorem withOperand_of_decode {p : Params} {c : Command} {d : Operand} (mk : Operand → Instr)
    (h : decodeOperand p c.opnd = .ok d) : withOperand p c mk = .ok (mk d) := by
  rw [withOperand, h]

theorem decodeFields_encode {p : Params} {i : Instr} (hi : i.wellFormed p = true) :
    decodeFields p (encode p i) i.op = .ok i := by
  cases i with
  | quant d | pack d | ldimg d => exact withOperand_of_decode _ (decodeOperand_encodeOperand hi)
  | unpack d w h | ldraw d w h =>
    simp only [Instr.wellFormed, Bool.and_eq_true] at hi
    obtain ⟨⟨hd, hw⟩, hh⟩ := hi
    refine (withOperand_of_decode _ (decodeOperand_encodeOperand hd)).trans ?_
    simp only [encode, arg0_encodeWord hw, arg1_encodeWord hw hh]
  | invert => rfl
  | rdbit x y | rdpix x y =>
    simp only [Instr.wellFormed, Bool.and_eq_true] at hi
    obtain ⟨hx, hy⟩ := hi
    simp only [encode, Instr.op, decodeFields, arg0_encodeWord hx, arg1_encodeWord hx hy]
  | rdbyte k => simp only [encode, Instr.op, decodeFields, arg0_encodeWord hi]

/-- Settles O2: the opcode selects the command's operation, and its fields read back as they were written. -/
theorem decodeOfEncodeIsTheCommand : Obligations.DecodeOfEncodeIsTheCommand := by
  intro p i hi
  have hop : Op.ofByte (encode p i).op = some i.op := by rw [op_encode, Op.ofByte_code]
  rw [decode_of_ofByte hop, decodeFields_encode hi]

end Sys2Proof
end

section
/-! What the decoder reads of a command: the fields of its operation's format and no others (rule R51), and an opcode
byte that is not reserved (rule R54). -/

namespace Sys2Proof

theorem withOperand_congr {p : Params} {a b : Command} (h : a.opnd = b.opnd) (mk : Operand → Instr) :
    withOperand p a mk = withOperand p b mk := by
  rw [withOperand, withOperand, h]

/-- Settles O4: format by format, `decodeFields` reads only the fields that the two commands share. -/
theorem unusedFieldsAreIgnored : Obligations.UnusedFieldsAreIgnored := by
  intro p a b o ha hb h
  rw [decode_of_ofByte ha, decode_of_ofByte hb]
  cases o with
  | quant | pack | ldimg => exact withOperand_congr h _
  | unpack | ldraw =>
    obtain ⟨hopnd, h0, h1⟩ := h
    simp only [decodeFields, h0, h1]
    exact withOperand_congr hopnd _
  | invert => rfl
  | rdbit | rdpix =>
    obtain ⟨h0, h1⟩ := h
    simp only [decodeFields, h0, h1]
  | rdbyte => simp only [decodeFields, h]

/-- The nine opcodes are 1 to 9, so an opcode byte selects nothing exactly outside that range (rule R54). -/
theorem Op.ofByte_eq_none_iff (b : Byte) : Op.ofByte b = none ↔ b.toNat = 0 ∨ 0x0A ≤ b.toNat := by
  simp only [Op.ofByte, Op.all, Op.code, List.find?_eq_none, List.forall_mem_cons, List.not_mem_nil, false_imp_iff,
    implies_true, and_true, beq_iff_eq, ← BitVec.toNat_inj, BitVec.toNat_ofNat]
  omega

end Sys2Proof

namespace Sys2Proof.Machine

/-- With a reserved opcode at the head of the inbox, the step refuses the command (rule R54). -/
theorem step_of_reserved {s : State} {c : Command} {rest : List HostEvent} (hin : s.inbox = .command c :: rest)
    (hop : Op.ofByte c.op = none) : step s = refuse (s.accept rest) := by
  simp [step, hin, decode, hop, reject]

/-- Settles O5: the range of the opcode map, and the refusal of whatever lies outside it. -/
theorem reservedOpcodesAreRefused : Obligations.ReservedOpcodesAreRefused :=
  ⟨Op.ofByte_eq_none_iff, fun _ c _ hin hop => step_of_reserved hin ((Op.ofByte_eq_none_iff c.op).2 hop)⟩

end Sys2Proof.Machine
end

section
/-! QUANT, PACK and LDIMG of an operand whose checks pass (rules R60, R74, R83, R110). -/

namespace Sys2Proof.Machine

section
variable {s : State} {b : PixBuf} (hz : zeroDim s.cfg (pixWidth b) (pixHeight b) = false)
include hz

theorem exec_quant_pixBuf : exec (.quant (.pixBuf b)) s = answer (.ok (.grid (quantize b))) s := by
  simp only [exec, execQuant, (pixOperand_eq_ok ..).2 ⟨rfl, hz⟩]

theorem exec_ldimg_pixBuf : exec (.ldimg (.pixBuf b)) s =
    answer (.ok .nothing) (s.bindBitmap .img (quantize b) (pack (quantize b)).bits) := by
  simp only [exec, execLdimg, (pixOperand_eq_ok ..).2 ⟨rfl, hz⟩]

end

theorem exec_pack_bin {s : State} {g : Grid Bit} (hz : zeroDim s.cfg g.w g.h = false) :
    exec (.pack (.pixBuf (.bin g))) s = answer (.ok (.packed (pack g))) s := by
  simp only [exec, execPack, (binOperand_eq_ok ..).2 ⟨rfl, hz⟩]

/-- Settles O32: quantizing keeps the dimensions, so PACK's check passes as QUANT's and LDIMG's do. -/
theorem quantThenPackAnswersWhatLdimgStores : Obligations.QuantThenPackAnswersWhatLdimgStores := by
  intro s b hdim
  have hz : zeroDim s.cfg (pixWidth b) (pixHeight b) = false := by
    simpa only [zeroDim_eq_false, Nat.one_le_iff_ne_zero] using hdim
  have hzq : zeroDim s.cfg (quantize b).w (quantize b).h = false := by rwa [quantize_w, quantize_h]
  exact ⟨_, _, _, _, _, exec_quant_pixBuf hz, rfl, exec_pack_bin (s := s.respond _) hzq, rfl,
    State.respond_sameBitmap _ s, exec_ldimg_pixBuf hz, Memory.bytes_ofBytes _, rfl, rfl⟩

end Sys2Proof.Machine
end

section
/-! The concrete tables: a word of each command (section 95.3), and the status codes (rule R56). -/

namespace Sys2Proof.Machine

/-- Settles O1: the decoder evaluates on each of the nine words. -/
theorem sampleWordsDecode : Obligations.SampleWordsDecode :=
  ⟨rfl, rfl, rfl, rfl, rfl, rfl, rfl, rfl, rfl⟩

/-- Settles O7, a status a clause. -/
theorem statusCodesAreTheTables : Obligations.StatusCodesAreTheTables :=
  ⟨fun _ => rfl, rfl, rfl, rfl⟩

end Sys2Proof.Machine
end

section
/-! The quantizer: its grid cell by cell (rules R70 to R73), and the two errors of its command before the answer
(rule R75). -/

namespace Sys2Proof.Machine

/-- A cell is quantized by its buffer's mode, and one that does not exist stays so (rules R71 to R73). -/
theorem cell_quantize (b : PixBuf) (x y : Nat) : (quantize b).cell x y = quantizedCell b x y := by
  cases b with
  | gray g => exact Grid.cell_map quantGray g x y
  | bin g => exact (Grid.cell_map quantBin g x y).trans Option.map_id'
  | other g => exact Grid.cell_map quantOther g x y

/-- Settles O14: `quantize` maps the buffer's cells and keeps its dimensions. -/
theorem quantizeIsCellByCell : Obligations.QuantizeIsCellByCell :=
  fun b => ⟨quantize_w b, quantize_h b, cell_quantize b⟩

theorem zeroDim_eq_true (p : Params) (w h : Nat) :
    zeroDim p w h = true ↔ p.zeroDimFault = true ∧ (w = 0 ∨ h = 0) := by
  simp [zeroDim]

theorem pixOperand_of_not_pixBuf (p : Params) {o : Operand} (h : isPixBuf o = false) :
    pixOperand p o = .error (.error .typeError) := by
  cases o with
  | pixBuf b => cases h
  | unrecognized | reservedMode | rawBytes bs => rfl

theorem pixOperand_of_zeroDim {p : Params} {b : PixBuf} (hz : zeroDim p (pixWidth b) (pixHeight b) = true) :
    pixOperand p (.pixBuf b) = .error (.error .valueError) :=
  if_pos hz

/-- QUANT ends with the response of the check that its operand fails. -/
theorem exec_quant_of_error {s : State} {o : Operand} {r : Response} (h : pixOperand s.cfg o = .error r) :
    exec (.quant o) s = answer r s := by
  simp only [exec, execQuant, h]

/-- Settles O15: the operand fails the check of its kind, fails the check of its dimensions, or passes both. -/
theorem quantAnswersTheQuantizedGrid : Obligations.QuantAnswersTheQuantizedGrid := by
  refine fun s => ⟨fun o ho => ?_, fun b hfault hdim => ?_, fun b hdim => ?_⟩
  · exact exec_quant_of_error (pixOperand_of_not_pixBuf s.cfg ho)
  · exact exec_quant_of_error (pixOperand_of_zeroDim ((zeroDim_eq_true ..).2 ⟨hfault, hdim⟩))
  · refine exec_quant_pixBuf ((zeroDim_eq_false ..).2 ?_)
    simpa only [Nat.one_le_iff_ne_zero] using hdim

end Sys2Proof.Machine
end

section
/-! The packer: the length of the packed bytes, their bits and bytes (rules R80, R82), and PACK's refusal and error
before its answer (rule R84). -/

namespace Sys2Proof.Machine

/-- Settles O17: the pad height is a multiple of 8, so the division is exact. -/
theorem packedLengthIsTheByteCount : Obligations.PackedLengthIsTheByteCount := by
  refine fun g => ⟨length_pack_bits g, ?_, length_pack_bits g⟩
  rw [← Nat.mul_assoc, Nat.mul_mod_left]

theorem getElem?_pack (g : Grid Bit) {x k : Nat} (hx : x < g.w) (hk : k < colBytes g.h) :
    (pack g).bits[x * colBytes g.h + k]? = some (packByte g x k) :=
  getElem?_records _ _ (packByte g) hx hk

/-- The bit of the packed bytes at the index of an existing cell is that cell. -/
theorem seqBit_pack_eq_cell {g : Grid Bit} (hg : g.shapeOk = true) {x y : Nat} (hx : x < g.w) (hy : y < g.h) :
    seqBit (pack g).bits (bitIndex x y g.h) = g.cell x y := by
  rw [seqBit_pack g hx hy, Grid.cell_eq_some_white hg hx hy]

/-- A padding bit of the packed bytes is 0: its row lies in the last byte of a column, from H on. -/
theorem seqBit_pack_of_isPadding {g : Grid Bit} {k : Nat} (hk : k < g.w * padHeight g.h)
    (hpad : IsPadding g.h k) : seqBit (pack g).bits k = some false := by
  have hpos : 0 < padHeight g.h := Nat.pos_of_mul_pos_left (Nat.zero_lt_of_lt hk)
  have hcol : k / padHeight g.h < g.w := Nat.div_lt_of_lt_mul (by rwa [Nat.mul_comm])
  have hrow : k % padHeight g.h / 8 < colBytes g.h :=
    Nat.div_lt_of_lt_mul (padHeight_eq g.h ▸ Nat.mod_lt k hpos)
  have hsplit : 8 * (k % padHeight g.h / 8) + k % padHeight g.h % 8 = k % padHeight g.h := Nat.div_add_mod ..
  rw [← bitIndex_div_mod g.h k, seqBit, bitIndex_div, bitIndex_mod, getElem?_pack g hcol hrow, Option.map_some,
    packByte, byteBit_byteOf _ _ (Nat.mod_lt _ (by decide)), hsplit,
    decide_eq_false (Nat.not_lt.2 hpad), Bool.false_and]

/-- The low `k` bits of a number, summed at their weights. -/
theorem mod_two_pow_eq_sum (n k : Nat) :
    n % 2 ^ k = ∑ j ∈ Finset.range k, if n.testBit j = true then 2 ^ j else 0 := by
  induction k with
  | zero => simp [Nat.mod_one]
  | succ k ih =>
    rw [Finset.sum_range_succ, ← ih, Nat.mod_pow_succ, Nat.testBit_eq_decide_div_mod_eq]
    rcases Nat.mod_two_eq_zero_or_one (n / 2 ^ k) with h | h <;> simp [h]

/-- The byte built from `f` is the sum of its bits at their weights (rule R80). -/
theorem toNat_byteOf (f : Nat → Bit) :
    (byteOf f).toNat = ∑ j ∈ Finset.range 8, if f j = true then 2 ^ j else 0 := by
  rw [← Nat.mod_eq_of_lt (byteOf f).isLt, mod_two_pow_eq_sum]
  refine Finset.sum_congr rfl fun j hj => ?_
  rw [BitVec.testBit_toNat, ← byteBit_eq_getLsbD, byteBit_byteOf f j (Finset.mem_range.1 hj)]

theorem Grid.white_eq_true (g : Grid Bit) (x y : Nat) : g.white x y = true ↔ g.cell x y = some true := beq_iff_eq

/-- Settles O16: a pixel's bit and a padding bit by their lemmas, a byte as the sum that `byteOf` is. -/
theorem packedBitsAreThePixels : Obligations.PackedBitsAreThePixels := by
  refine fun g hg => ⟨pack_width g, pack_height g, length_pack_bits g, fun x y => seqBit_pack_eq_cell hg,
    fun k => seqBit_pack_of_isPadding, fun x k hx hk => ⟨packByte g x k, getElem?_pack g hx hk, ?_⟩⟩
  simp only [packByte, toNat_byteOf, Bool.and_eq_true, decide_eq_true_eq, Grid.white_eq_true]

theorem binOperand_of_not_binBuf (p : Params) {o : Operand} (h : isBinBuf o = false) :
    binOperand p o = .error .refused := by
  cases o with
  | pixBuf b =>
    cases b with
    | bin g => cases h
    | gray g | other g => rfl
  | unrecognized | reservedMode | rawBytes bs => rfl

theorem binOperand_of_zeroDim {p : Params} {g : Grid Bit} (hz : zeroDim p g.w g.h = true) :
    binOperand p (.pixBuf (.bin g)) = .error (.error .valueError) :=
  if_pos hz

/-- PACK ends with the response of the check that its operand fails. -/
theorem exec_pack_of_error {s : State} {o : Operand} {r : Response} (h : binOperand s.cfg o = .error r) :
    exec (.pack o) s = answer r s := by
  simp only [exec, execPack, h]

theorem pack_bits_eq_nil {g : Grid Bit} (h : g.w = 0 ∨ g.h = 0) : (pack g).bits = [] := by
  rw [← List.length_eq_zero_iff, length_pack_bits]
  rcases h with h | h <;> simp [numBytes, padHeight, h]

/-- Settles O18: the operand is no BIN buffer, has a zero dimension that is refused, or is packed. -/
theorem packAnswersThePackedBitmap : Obligations.PackAnswersThePackedBitmap := by
  refine ⟨fun s => ⟨fun o ho => ?_, fun g hfault hdim => ?_, fun g hdim => ?_⟩, fun g => pack_bits_eq_nil⟩
  · exact exec_pack_of_error (binOperand_of_not_binBuf s.cfg ho)
  · exact exec_pack_of_error (binOperand_of_zeroDim ((zeroDim_eq_true ..).2 ⟨hfault, hdim⟩))
  · refine exec_pack_bin ((zeroDim_eq_false ..).2 ?_)
    simpa only [Nat.one_le_iff_ne_zero] using hdim

end Sys2Proof.Machine
end

section
/-! The bit serializer (rule R85): a byte is assembled in eight bit steps, and the bytes leave it in the order of the
packed bytes. -/

namespace Sys2Proof.Machine

/-- The assembly register after `j` bits of a byte. -/
def takeBits (f : SrForm) (b : Nat → Bit) : Nat → Byte
  | 0     => 0#8
  | j + 1 => takeBit f (b j) j (takeBits f b j)

/-- Placed bits stand at their positions. -/
theorem getLsbD_takeBits_place (b : Nat → Bit) (j i : Nat) (hi : i < 8) :
    (takeBits .place b j).getLsbD i = (decide (i < j) && b i) := by
  induction j with
  | zero => simp [takeBits]
  | succ j ih =>
    simp only [takeBits, takeBit, BitVec.getLsbD_or, ih, BitVec.getLsbD_shiftLeft, getLsbD_bitByte]
    rcases Nat.lt_trichotomy i j with h | rfl | h
    · simp [h, Nat.lt_succ_of_lt h]
    · simp [hi]
    · simp [show ¬ i < j + 1 by omega, show ¬ i < j by omega, show i - j ≠ 0 by omega]

/-- Bits shifted in at the top have moved down by one with each bit after them: after `j` bits, bit `i` of the byte
stands at `i + 8 - j`. -/
theorem getLsbD_takeBits_shift (b : Nat → Bit) (j i : Nat) (hi : i < 8) :
    (takeBits .shift b j).getLsbD i = (decide (8 ≤ i + j) && b (i + j - 8)) := by
  induction j generalizing i with
  | zero => simp [takeBits, hi]
  | succ j ih =>
    simp only [takeBits, takeBit, BitVec.getLsbD_or, BitVec.getLsbD_shiftLeft, getLsbD_bitByte,
      BitVec.getLsbD_ushiftRight]
    rcases Nat.lt_or_eq_of_le (Nat.le_of_lt_succ hi) with h | rfl
    · rw [ih (1 + i) (by omega)]
      simp [h, show 1 + i + j = i + (j + 1) by omega]
    · simp [show 7 + (j + 1) = 8 + j by omega]

/-- Both forms of the assembly register hold the byte after its eight bits (rule R85). -/
theorem takeBits_eight (f : SrForm) (b : Nat → Bit) : takeBits f b 8 = byteOf b := by
  refine byte_ext fun i hi => ?_
  rw [byteBit_byteOf b i hi, byteBit_eq_getLsbD]
  cases f with
  | place => rw [getLsbD_takeBits_place b 8 i hi, decide_eq_true hi, Bool.true_and]
  | shift => rw [getLsbD_takeBits_shift b 8 i hi, decide_eq_true (Nat.le_add_left 8 i), Bool.true_and,
      Nat.add_sub_cancel]

theorem serializerRun_eq_iterate (f : SrForm) (g : Grid Bit) (n : Nat) (r : Serializer) :
    serializerRun f g n r = (serializerTick f g)^[n] r := by
  induction n generalizing r with
  | zero => rfl
  | succ n ih => exact ih _

/-- Bit `j` of byte `k` of column `x`: what the serializer appends there, and what `packByte` is built from. -/
def columnBit (g : Grid Bit) (x k j : Nat) : Bit := decide (8 * k + j < g.h) && g.white x (8 * k + j)

/-- The serializer in byte `k` of column `x`, after `j` of the byte's bits. -/
def serializerAt (f : SrForm) (g : Grid Bit) (x k : Nat) (out : List Byte) (j : Nat) : Serializer :=
  { xc := x, kc := k, jc := j, sr := takeBits f (columnBit g x k) j, out := out }

section
variable (f : SrForm) (g : Grid Bit) (x k : Nat) (out : List Byte)

/-- Before the eighth bit a bit step only fills the assembly register. -/
theorem serializerTick_serializerAt {j : Nat} (hj : j < 7) :
    serializerTick f g (serializerAt f g x k out j) = serializerAt f g x k out (j + 1) :=
  if_pos hj

/-- With the eighth bit the byte is emitted, and the counters move on. -/
theorem serializerTick_serializerAt_seven : serializerTick f g (serializerAt f g x k out 7) =
    nextByte g.h (serializerAt f g x k (out ++ [packByte g x k]) 7) := by
  have hbyte : packByte g x k = takeBits f (columnBit g x k) 8 := (takeBits_eight f _).symm
  rw [hbyte]
  exact if_neg (Nat.lt_irrefl 7)

theorem iterate_serializerTick_serializerAt {j : Nat} (hj : j ≤ 7) :
    (serializerTick f g)^[j] (serializerAt f g x k out 0) = serializerAt f g x k out j := by
  induction j with
  | zero => rfl
  | succ j ih => rw [Function.iterate_succ_apply', ih (Nat.le_of_lt hj), serializerTick_serializerAt _ _ _ _ _ hj]

/-- Eight bit steps from the start of a byte emit it. -/
theorem iterate_serializerTick_eight : (serializerTick f g)^[8] (serializerAt f g x k out 0) =
    nextByte g.h (serializerAt f g x k (out ++ [packByte g x k]) 7) := by
  rw [Function.iterate_succ_apply', iterate_serializerTick_serializerAt f g x k out (Nat.le_refl 7),
    serializerTick_serializerAt_seven]

/-- The column and byte-in-column counters run as quotient and remainder of the byte's index. -/
theorem nextByte_serializerAt {n : Nat} (hpos : 0 < colBytes g.h) (j : Nat) :
    nextByte g.h (serializerAt f g (n / colBytes g.h) (n % colBytes g.h) out j) =
      serializerAt f g ((n + 1) / colBytes g.h) ((n + 1) % colBytes g.h) out 0 := by
  have hn := Nat.div_add_mod n (colBytes g.h)
  have hlt := Nat.mod_lt n hpos
  rw [nextByte]
  split
  next hrow =>
    obtain ⟨hdiv, hmod⟩ : (n + 1) / colBytes g.h = n / colBytes g.h ∧
        (n + 1) % colBytes g.h = n % colBytes g.h + 1 :=
      (Nat.div_mod_unique hpos).2 ⟨by omega, hrow⟩
    rw [hdiv, hmod]
    rfl
  next hrow =>
    have hend : n % colBytes g.h + 1 = colBytes g.h := Nat.le_antisymm hlt (Nat.not_lt.1 hrow)
    obtain ⟨hdiv, hmod⟩ : (n + 1) / colBytes g.h = n / colBytes g.h + 1 ∧ (n + 1) % colBytes g.h = 0 :=
      (Nat.div_mod_unique hpos).2 ⟨by rw [Nat.mul_add_one]; omega, hpos⟩
    rw [hdiv, hmod]
    rfl

end

/-- After `8 * n` bit steps the serializer stands before byte `n` and has emitted the bytes before it. -/
theorem serializerRun_bytes (f : SrForm) (g : Grid Bit) {n : Nat} (hn : n ≤ numBytes g.w g.h) :
    serializerRun f g (8 * n) serializerStart =
      serializerAt f g (n / colBytes g.h) (n % colBytes g.h) ((pack g).bits.take n) 0 := by
  rw [serializerRun_eq_iterate]
  induction n with
  | zero => rw [Nat.zero_div, Nat.zero_mod]; rfl
  | succ n ih =>
    have hlt : n < g.w * colBytes g.h := numBytes_eq g.w g.h ▸ hn
    have hpos : 0 < colBytes g.h := Nat.pos_of_mul_pos_left (Nat.zero_lt_of_lt hlt)
    have hcol : n / colBytes g.h < g.w := Nat.div_lt_of_lt_mul (by rwa [Nat.mul_comm])
    have hbyte : (pack g).bits[n]? = some (packByte g (n / colBytes g.h) (n % colBytes g.h)) := by
      rw [← getElem?_pack g hcol (Nat.mod_lt n hpos), Nat.div_add_mod']
    rw [Nat.mul_add_one, Nat.add_comm, Function.iterate_add_apply, ih (Nat.le_of_lt hn),
      iterate_serializerTick_eight, nextByte_serializerAt _ _ _ hpos, List.take_add_one, hbyte, Option.toList_some]

/-- Settles O19: all the bit steps are eight for each of the packed bytes. -/
theorem serializerEmitsThePackedBytes : Obligations.SerializerEmitsThePackedBytes := by
  refine fun f g => ⟨fun n hn => congrArg Serializer.out (serializerRun_bytes f g hn), ?_⟩
  have hsteps : g.w * padHeight g.h = 8 * numBytes g.w g.h := by
    rw [padHeight_eq, numBytes_eq, Nat.mul_left_comm]
  rw [hsteps, serializerRun_bytes f g (Nat.le_refl _)]
  exact List.take_of_length_le (length_pack_bits g).le

end Sys2Proof.Machine
end

section
/-! The laws that tie the packer and the unpacker (rules R86, R96): two grids are equal by their cells, two byte
sequences by their bits. -/

namespace Sys2Proof

theorem cellOf_eq_getElem {α : Type} {cols : List (List α)} {x y : Nat} (hx : x < cols.length)
    (hy : y < cols[x].length) : cellOf cols x y = some cols[x][y] := by
  simp [cellOf, hx, hy]

/-- Two grids of one size and the right shape are equal when they agree on every cell. -/
theorem Grid.eq_of_cell_eq {α : Type} {g g' : Grid α} (hg : g.shapeOk = true) (hg' : g'.shapeOk = true)
    (hw : g.w = g'.w) (hh : g.h = g'.h) (hcell : ∀ x < g.w, ∀ y < g.h, g.cell x y = g'.cell x y) : g = g' := by
  obtain ⟨hlen, hcol⟩ := g.shapeOk_iff.1 hg
  obtain ⟨hlen', hcol'⟩ := g'.shapeOk_iff.1 hg'
  have hcols : g.cols = g'.cols := by
    refine List.ext_getElem (by omega) fun x hx hx' => ?_
    have hy := hcol _ (List.getElem_mem hx)
    have hy' := hcol' _ (List.getElem_mem hx')
    refine List.ext_getElem (by omega) fun y hyx hyx' => ?_
    have hxy := hcell x (by omega) y (by omega)
    rwa [Grid.cell, Grid.cell, cellOf_eq_getElem hx hyx, cellOf_eq_getElem hx' hyx', Option.some_inj] at hxy
  cases g
  cases g'
  cases hw
  cases hh
  cases hcols
  rfl

end Sys2Proof

namespace Sys2Proof.Machine

/-- Two byte sequences of one length are equal when they agree on every bit. -/
theorem eq_of_seqBit_eq {as bs : List Byte} (hl : as.length = bs.length)
    (hbit : ∀ k < 8 * as.length, seqBit as k = seqBit bs k) : as = bs := by
  refine List.ext_getElem hl fun i hi hi' => byte_ext fun j hj => ?_
  have hk := hbit (8 * i + j) (by omega)
  have hdiv : (8 * i + j) / 8 = i := by omega
  have hmod : (8 * i + j) % 8 = j := by omega
  simpa [seqBit, hdiv, hmod, hi, hi'] using hk

/-- The round trip (rule R86). -/
theorem unpack_pack {g : Grid Bit} (hg : g.shapeOk = true) : unpack (pack g).bits g.w g.h = g := by
  refine Grid.eq_of_cell_eq (unpack_shapeOk ..) hg rfl rfl fun x hx y hy => ?_
  rw [unpack_w] at hx
  rw [unpack_h] at hy
  rw [cell_unpack (length_pack_bits g).ge hx hy, seqBit_pack_eq_cell hg hx hy]

section
variable {bs : List Byte} {w h : Nat} (hl : numBytes w h ≤ bs.length)
include hl

/-- Packing what was unpacked keeps the pixels' bits and clears the padding bits (rule R96). -/
theorem seqBit_pack_unpack {k : Nat} (hk : k < w * padHeight h) :
    seqBit (pack (unpack bs w h)).bits k = if IsPadding h k then some false else seqBit bs k := by
  split
  next hpad => exact seqBit_pack_of_isPadding hk hpad
  next hpix =>
    obtain ⟨x, y, hx, hy, rfl⟩ := (exists_bitIndex_iff_not_isPadding hk).2 hpix
    exact (seqBit_pack_eq_cell (unpack_shapeOk ..) hx hy).trans (cell_unpack hl hx hy)

/-- Packing what was unpacked is the identity exactly on bytes with nothing after the last column and no padding bit
set (rule R96). -/
theorem pack_unpack_eq_iff : (pack (unpack bs w h)).bits = bs ↔
    bs.length = numBytes w h ∧ ∀ k, k < w * padHeight h → IsPadding h k → seqBit bs k = some false := by
  have hlen : (pack (unpack bs w h)).bits.length = numBytes w h := length_pack_bits _
  constructor
  · intro heq
    refine ⟨heq ▸ hlen, fun k hk hpad => ?_⟩
    rw [← heq, seqBit_pack_unpack hl hk, if_pos hpad]
  · rintro ⟨hexact, hclear⟩
    refine eq_of_seqBit_eq (hlen.trans hexact.symm) fun k hk => ?_
    rw [hlen, numBytes_eq, Nat.mul_left_comm, ← padHeight_eq] at hk
    rw [seqBit_pack_unpack hl hk]
    split
    next hpad => exact (hclear k hk hpad).symm
    next => rfl

end

/-- Settles O24: the round trip, then what packing makes of unpacked bytes. -/
theorem unpackInvertsPackAndPackNormalizes : Obligations.UnpackInvertsPackAndPackNormalizes := by
  exact ⟨fun g hg => ⟨(length_pack_bits g).ge, unpack_pack hg, fun x y => seqBit_pack_eq_cell hg⟩,
    fun bs w h hl => ⟨length_pack_bits _, fun k => seqBit_pack_unpack hl, pack_unpack_eq_iff hl⟩⟩

end Sys2Proof.Machine
end

section
/-! The unpacker: its grid cell by cell (rule R90), what that grid does not depend on (rules R92, R93), and UNPACK's
refusal and errors before its answer (rule R97). -/

namespace Sys2Proof.Machine

/-- The bit at a pixel's index, when the byte that holds it is known (rule R33). -/
theorem seqBit_bitIndex {bs : List Byte} {x y h : Nat} {b : Byte} (hb : bs[x * colBytes h + y / 8]? = some b) :
    seqBit bs (bitIndex x y h) = some (b.toNat.testBit (y % 8)) := by
  rw [seqBit, bitIndex_div, bitIndex_mod, hb, Option.map_some, byteBit_eq_getLsbD, BitVec.testBit_toNat]

/-- Settles O20: the pixel's bit, and the byte that holds it, which the buffer is long enough to have. -/
theorem unpackedCellsAreTheBits : Obligations.UnpackedCellsAreTheBits := by
  refine fun bs w h hl => ⟨unpack_w .., unpack_h .., unpack_shapeOk .., fun x y hx hy => ?_⟩
  have hbyte : x * colBytes h + y / 8 < bs.length :=
    bitIndex_div x y h ▸ (bitIndex_div_lt_numBytes hx hy).trans_le hl
  have hcell := cell_unpack hl hx hy
  exact ⟨hcell, _, List.getElem?_eq_getElem hbyte,
    hcell.trans (seqBit_bitIndex (List.getElem?_eq_getElem hbyte))⟩

/-- The unpacked grid depends on the pixels' bits alone. -/
theorem unpack_congr {bs cs : List Byte} {w h : Nat}
    (hpix : ∀ x < w, ∀ y < h, seqBit bs (bitIndex x y h) = seqBit cs (bitIndex x y h)) :
    unpack bs w h = unpack cs w h := by
  refine Grid.eq_of_cell_eq (unpack_shapeOk ..) (unpack_shapeOk ..) rfl rfl fun x hx y hy => ?_
  rw [unpack, unpack, Grid.cell_ofFn, Grid.cell_ofFn, hpix x hx y hy]

/-- A pixel's bit is one of the bits of the `w` columns. -/
theorem bitIndex_lt {x y w h : Nat} (hx : x < w) (hy : y < h) : bitIndex x y h < w * padHeight h := by
  have hbyte := bitIndex_div_lt_numBytes hx hy
  rw [numBytes_eq] at hbyte
  rw [padHeight_eq, Nat.mul_left_comm]
  omega

/-- Settles O21: the first NB bytes hold every pixel's bit, and a pixel's bit is no padding bit. -/
theorem unpackIgnoresPaddingAndTrailingBytes : Obligations.UnpackIgnoresPaddingAndTrailingBytes := by
  refine ⟨fun bs w h _ => unpack_congr fun x hx y hy => ?_,
    fun bs cs w h _ _ hagree => unpack_congr fun x hx y hy => ?_⟩
  · exact (seqBit_take (bitIndex_div_lt_numBytes hx hy)).symm
  · have hk := bitIndex_lt hx hy
    exact hagree _ hk ((exists_bitIndex_iff_not_isPadding hk).1 ⟨x, y, hx, hy, rfl⟩)

section
variable {p : Params} {w h : Nat}

/-- A width or a height that does not fit is refused before anything else is looked at. -/
theorem rawOperand_of_not_fitsDim (o : Operand) (hdim : 2 ^ p.dimw ≤ w ∨ 2 ^ p.dimw ≤ h) :
    rawOperand p o w h = .error .refused := by
  have hfit : ¬ (p.fitsDim w && p.fitsDim h) = true := by
    simpa [Params.fitsDim, imp_iff_not_or] using hdim
  exact if_neg hfit

variable (hw : w < 2 ^ p.dimw) (hh : h < 2 ^ p.dimw)
include hw hh

theorem rawOperand_of_fitsDim (o : Operand) : rawOperand p o w h = rawBytesFor p w h o :=
  if_pos (by simp [Params.fitsDim, hw, hh])

theorem rawOperand_of_not_rawBytes {o : Operand} (ho : isRawBytes o = false) :
    rawOperand p o w h = .error (.error .typeError) := by
  rw [rawOperand_of_fitsDim hw hh]
  cases o with
  | rawBytes bs => cases ho
  | unrecognized | reservedMode | pixBuf b => rfl

/-- The two causes of ValueErrorKind: a zero dimension that is an error, and a buffer that is too short. -/
theorem rawOperand_of_zeroDim_or_short {bs : List Byte}
    (hbad : zeroDim p w h = true ∨ bs.length < numBytes w h) :
    rawOperand p (.rawBytes bs) w h = .error (.error .valueError) := by
  rw [rawOperand_of_fitsDim hw hh, rawBytesFor]
  split
  next => rfl
  next hz => exact if_pos (hbad.resolve_left hz)

end

theorem exec_unpack_rawBytes {s : State} {bs : List Byte} {w h : Nat} (hw : w < 2 ^ s.cfg.dimw)
    (hh : h < 2 ^ s.cfg.dimw) (hz : zeroDim s.cfg w h = false) (hl : numBytes w h ≤ bs.length) :
    exec (.unpack (.rawBytes bs) w h) s = answer (.ok (.grid (unpack bs w h))) s := by
  simp only [exec, execUnpack, (rawOperand_eq_ok ..).2 ⟨hw, hh, rfl, hz, hl⟩]

/-- UNPACK ends with the response of the check that its operands fail. -/
theorem exec_unpack_of_error {s : State} {o : Operand} {w h : Nat} {r : Response}
    (he : rawOperand s.cfg o w h = .error r) : exec (.unpack o w h) s = answer r s := by
  simp only [exec, execUnpack, he]

/-- Settles O22: the arguments do not fit, the operand is no raw bytes, a dimension or the length is wrong, or the
bytes are unpacked. -/
theorem unpackAnswersTheUnpackedGrid : Obligations.UnpackAnswersTheUnpackedGrid := by
  intro s w h
  rw [← numBytes_eq]
  refine ⟨fun o hdim => ?_, fun hw hh => ⟨fun o ho => ?_, fun bs hbad => ?_, fun bs hdim hl => ?_⟩⟩
  · exact exec_unpack_of_error (rawOperand_of_not_fitsDim o hdim)
  · exact exec_unpack_of_error (rawOperand_of_not_rawBytes hw hh ho)
  · exact exec_unpack_of_error (rawOperand_of_zeroDim_or_short hw hh (hbad.imp_left (zeroDim_eq_true ..).2))
  · refine exec_unpack_rawBytes hw hh ((zeroDim_eq_false ..).2 ?_) hl
    simpa only [Nat.one_le_iff_ne_zero] using hdim

end Sys2Proof.Machine
end

section
/-! The bit deserializer (rule R95): in column `x` it stands before row `y`, and each bit step moves it one row down
until the pad height, where the column is finished. -/

namespace Sys2Proof.Machine

theorem deserializerRun_eq_iterate (bs : List Byte) (h n : Nat) (r : Deserializer) :
    deserializerRun bs h n r = (deserializerTick bs h)^[n] r := by
  induction n generalizing r with
  | zero => rfl
  | succ n ih => exact ih _

/-- The cells of column `x` of an unpacked grid, row 0 first. -/
def unpackedColumn (bs : List Byte) (h x : Nat) : List Bit :=
  (List.range h).map fun y => seqBit bs (bitIndex x y h) == some true

theorem unpack_cols (bs : List Byte) (w h : Nat) :
    (unpack bs w h).cols = (List.range w).map (unpackedColumn bs h) := rfl

/-- What the byte register holds after `k` bit steps: the byte of the last bit taken, and zero before the first. -/
def heldByte (bs : List Byte) : Nat → Byte
  | 0     => 0#8
  | k + 1 => bs.getD (k / 8) 0#8

/-- The deserializer before row `y` of column `x`, where the rows go on to the pad height. -/
def deserializerAt (bs : List Byte) (h x y : Nat) : Deserializer :=
  { xc := x, kc := y / 8, jc := y % 8, sr := heldByte bs (bitIndex x y h),
    col := (unpackedColumn bs h x).take y, cols := (List.range x).map (unpackedColumn bs h) }

/-- The bit of a byte read with default 0 is the bit of the sequence, where a missing bit counts as clear. -/
theorem byteBit_getD (bs : List Byte) (k : Nat) :
    byteBit (bs.getD (k / 8) 0#8) (k % 8) = (seqBit bs k == some true) := by
  rw [seqBit, List.getD_eq_getElem?_getD]
  cases bs[k / 8]? <;> simp [byteBit_eq_getLsbD]

section
variable (bs : List Byte) (h x y : Nat)

/-- The byte consumed is that of the bit's index: loaded with bit 0, and still held at the other seven. -/
theorem consumed_deserializerAt :
    consumed bs h (deserializerAt bs h x y) = bs.getD (bitIndex x y h / 8) 0#8 := by
  rw [consumed]
  split
  next => rw [bitIndex_div]; rfl
  next hj =>
    have hmod : bitIndex x y h % 8 ≠ 0 := bitIndex_mod x y h ▸ hj
    rw [deserializerAt]
    cases hk : bitIndex x y h with
    | zero => exact absurd (hk ▸ Nat.zero_mod 8) hmod
    | succ k =>
      have hsame : k / 8 = (k + 1) / 8 := by omega
      rw [heldByte, hsame]

/-- A bit step appends the row's cell, and nothing in a padding row. -/
theorem columnAfter_deserializerAt :
    columnAfter bs h (deserializerAt bs h x y) = (unpackedColumn bs h x).take (y + 1) := by
  have hrow : 8 * (y / 8) + y % 8 = y := Nat.div_add_mod y 8
  have hbit : byteBit (bs.getD (bitIndex x y h / 8) 0#8) (y % 8) = (seqBit bs (bitIndex x y h) == some true) :=
    bitIndex_mod x y h ▸ byteBit_getD bs (bitIndex x y h)
  rw [columnAfter, consumed_deserializerAt, List.take_add_one]
  simp only [deserializerAt, hrow, hbit]
  split <;> simp [unpackedColumn, *]

/-- A bit step before the last row of the column moves one row down, to the byte's next bit or the next byte. -/
theorem deserializerTick_deserializerAt (hy : y + 1 < padHeight h) :
    deserializerTick bs h (deserializerAt bs h x y) = deserializerAt bs h x (y + 1) := by
  rw [padHeight_eq] at hy
  rw [deserializerTick, columnAfter_deserializerAt, consumed_deserializerAt]
  by_cases hj : y % 8 < 7
  · have hdiv : (y + 1) / 8 = y / 8 := by omega
    have hmod : (y + 1) % 8 = y % 8 + 1 := by omega
    refine (if_pos hj).trans ?_
    rw [deserializerAt, deserializerAt, hdiv, hmod]
    rfl
  · have hk : y / 8 + 1 < colBytes h := by omega
    have hdiv : (y + 1) / 8 = y / 8 + 1 := by omega
    have hmod : (y + 1) % 8 = 0 := by omega
    refine (if_neg hj).trans ((if_pos hk).trans ?_)
    rw [deserializerAt, deserializerAt, hdiv, hmod]
    rfl

/-- The bit step of the last row finishes the column: the rows taken are all the column's. -/
theorem deserializerTick_deserializerAt_last (hy : y + 1 = padHeight h) :
    deserializerTick bs h (deserializerAt bs h x y) = deserializerAt bs h (x + 1) 0 := by
  have hcol : (unpackedColumn bs h x).take (y + 1) = unpackedColumn bs h x := by
    refine List.take_of_length_le ?_
    rw [unpackedColumn, List.length_map, List.length_range, hy]
    exact le_padHeight h
  have hnext : bitIndex (x + 1) 0 h = bitIndex x y h + 1 := by
    rw [bitIndex, bitIndex, Nat.add_one_mul, ← hy]
    rfl
  rw [padHeight_eq] at hy
  have hj : ¬ y % 8 < 7 := by omega
  have hk : ¬ y / 8 + 1 < colBytes h := by omega
  rw [deserializerTick, columnAfter_deserializerAt, consumed_deserializerAt, hcol]
  refine (if_neg hj).trans ((if_neg hk).trans ?_)
  rw [deserializerAt, deserializerAt, hnext, List.range_succ, List.map_append]
  rfl

end

/-- A column of bit steps builds the next column. -/
theorem iterate_deserializerTick_padHeight (bs : List Byte) {h : Nat} (hh : 1 ≤ h) (x : Nat) :
    (deserializerTick bs h)^[padHeight h] (deserializerAt bs h x 0) = deserializerAt bs h (x + 1) 0 := by
  have hrows (y : Nat) (hy : y < padHeight h) :
      (deserializerTick bs h)^[y] (deserializerAt bs h x 0) = deserializerAt bs h x y := by
    induction y with
    | zero => rfl
    | succ y ih =>
      rw [Function.iterate_succ_apply', ih (Nat.lt_of_succ_lt hy), deserializerTick_deserializerAt _ _ _ _ hy]
  obtain ⟨y, hy⟩ : ∃ y, padHeight h = y + 1 :=
    Nat.exists_eq_succ_of_ne_zero (Nat.ne_zero_of_lt (hh.trans (le_padHeight h)))
  rw [hy, Function.iterate_succ_apply', hrows y (by omega), deserializerTick_deserializerAt_last _ _ _ _ hy.symm]

/-- After `n` columns of bit steps the deserializer stands before column `n` and has built the columns before it. -/
theorem deserializerRun_columns (bs : List Byte) {h : Nat} (hh : 1 ≤ h) (n : Nat) :
    deserializerRun bs h (n * padHeight h) deserializerStart = deserializerAt bs h n 0 := by
  rw [deserializerRun_eq_iterate]
  induction n with
  | zero => simp [deserializerAt, deserializerStart, bitIndex, heldByte]
  | succ n ih =>
    rw [Nat.succ_mul, Nat.add_comm, Function.iterate_add_apply, ih, iterate_deserializerTick_padHeight bs hh]

/-- Settles O23: a column of bit steps builds a column of the grid, and with height 0 there is no step and no cell. -/
theorem deserializerBuildsTheUnpackedColumns : Obligations.DeserializerBuildsTheUnpackedColumns := by
  refine ⟨fun bs w h n _ hh hn => ?_, fun bs w => ⟨rfl, fun x y => ?_⟩⟩
  · rw [deserializerRun_columns bs hh, unpack_cols, ← List.map_take, List.take_range, Nat.min_eq_left hn]
    rfl
  · rw [unpack, Grid.cell_ofFn, if_neg fun hxy => y.not_lt_zero hxy.2]

end Sys2Proof.Machine
end

section
/-! `renderAscii`: the Bitmap that a bound state hands to the Renderer has its shape and its two stores agree, so both
paths draw the same pixels (rules R101, R102), and what is drawn when a dimension is zero (rule R105). -/

namespace Sys2Proof.Machine

/-- A store with the addresses 0 to n - 1 in order is the store of its own bytes. -/
theorem Memory.ofBytes_bytes {m : Memory} {n : Nat} (h : m.map Prod.fst = List.range n) :
    Memory.ofBytes m.bytes = m := by
  rw [List.range_eq_range'] at h
  unfold Memory.ofBytes
  generalize 0 = base at h ⊢
  induction m generalizing base n with
  | nil => rfl
  | cons c m ih =>
    cases n with
    | zero => cases h
    | succ n =>
      rw [List.map_cons, List.range'_succ] at h
      obtain ⟨rfl, hm⟩ := List.cons.inj h
      exact congrArg (c :: ·) (ih _ hm)

/-- What the Renderer is handed while a Bitmap is bound (rule R101). -/
def State.boundBitmap (s : State) : Bitmap := { w := s.w, h := s.h, grid := s.grid, bits := s.bits.bytes }

@[simp] theorem State.boundBitmap_w (s : State) : s.boundBitmap.w = s.w := rfl
@[simp] theorem State.boundBitmap_h (s : State) : s.boundBitmap.h = s.h := rfl

theorem State.bitmap_of_valid {s : State} (hv : s.valid = true) : s.bitmap = some s.boundBitmap :=
  (s.bitmap_eq_some _).2 ⟨hv, rfl⟩

theorem State.boundBitmap_shapeOk {s : State} (hs : s.StoresOk) : s.boundBitmap.shapeOk = true := by
  obtain ⟨hw, hh, hbits⟩ := hs
  have hbytes : s.bits.bytes.length = numBytes s.w s.h := by
    simpa [Memory.bytes] using congrArg List.length hbits
  simpa [Bitmap.shapeOk, State.boundBitmap, hw, hbytes] using hh

theorem State.zeroDim_of_bound {s : State} (hd : s.DimsOk) (hv : s.valid = true) :
    zeroDim s.cfg s.w s.h = false := by
  obtain ⟨-, -, -, hdim⟩ := hd
  exact (zeroDim_eq_false ..).2 (hdim hv)

/-- In a state of the invariant every pixel has one value, in the grid, in the bits, and on both paths of the
Renderer (rule R17). -/
theorem State.exists_pixel {s : State} (hs : s.Inv) {x y : Nat} (hx : x < s.w) (hy : y < s.h) :
    ∃ b, s.cell x y = some b ∧ s.bits.bit (bitIndex x y s.h) = some b ∧
      ∀ fromPacked, s.boundBitmap.pixel fromPacked x y = b := by
  obtain ⟨-, -, ⟨hw, hh, hbits⟩, hagree⟩ := hs
  obtain ⟨b, hcell⟩ := Option.isSome_iff_exists.1 ((cellOf_isSome_iff hw hh x y).2 ⟨hx, hy⟩)
  have hbit : s.bits.bit (bitIndex x y s.h) = some b := (hagree x hx y hy).trans hcell
  have hseq : seqBit s.bits.bytes (bitIndex x y s.h) = some b := by
    rw [← Memory.bit_ofBytes, Memory.ofBytes_bytes hbits, hbit]
  refine ⟨b, hcell, hbit, fun fromPacked => ?_⟩
  cases fromPacked with
  | true => simp [Bitmap.pixel, State.boundBitmap, hseq]
  | false => simp [Bitmap.pixel, State.boundBitmap, hcell]

/-- The character at place `x` of row `y`: a pixel's, and after the last pixel the newline. -/
def asciiChar (b : Bitmap) (fromPacked : Bool) (y x : Nat) : Char :=
  if x < b.w then (if b.pixel fromPacked x y then '#' else ' ') else '\n'

theorem asciiRow_eq_map (b : Bitmap) (fromPacked : Bool) (y : Nat) :
    asciiRow b fromPacked y = (List.range (b.w + 1)).map (asciiChar b fromPacked y) := by
  rw [asciiRow, List.range_succ, List.map_append]
  congr 1
  · exact List.map_congr_left fun x hx => (if_pos (List.mem_range.1 hx)).symm
  · simp [asciiChar]

/-- The text of all rows: `h` records of `w + 1` characters. -/
def asciiText (b : Bitmap) (fromPacked : Bool) : Text :=
  (List.range b.h).flatMap fun y => (List.range (b.w + 1)).map (asciiChar b fromPacked y)

theorem renderAscii_eq_ok {p : Params} {b : Bitmap} (hz : zeroDim p b.w b.h = false) (hb : b.shapeOk = true)
    (fromPacked : Bool) : renderAscii p b fromPacked = .ok (asciiText b fromPacked) := by
  simp [renderAscii, hz, hb, asciiRow_eq_map, asciiText]

theorem renderAscii_of_zeroDim {p : Params} {b : Bitmap} (hz : zeroDim p b.w b.h = true) (fromPacked : Bool) :
    renderAscii p b fromPacked = .error .valueErrorKind :=
  if_pos hz

theorem renderAscii_boundBitmap {s : State} (hs : s.Inv) (hv : s.valid = true) (fromPacked : Bool) :
    renderAscii s.cfg s.boundBitmap fromPacked = .ok (asciiText s.boundBitmap fromPacked) := by
  obtain ⟨-, hdims, hstores, -⟩ := hs
  exact renderAscii_eq_ok (State.zeroDim_of_bound hdims hv) (State.boundBitmap_shapeOk hstores) fromPacked

theorem length_asciiText (b : Bitmap) (fromPacked : Bool) :
    (asciiText b fromPacked).length = b.h * (b.w + 1) :=
  length_records _ _ (asciiChar b fromPacked)

theorem getElem?_asciiText (b : Bitmap) (fromPacked : Bool) {x y : Nat} (hy : y < b.h) (hx : x < b.w + 1) :
    (asciiText b fromPacked)[y * (b.w + 1) + x]? = some (asciiChar b fromPacked y x) :=
  getElem?_records _ _ (asciiChar b fromPacked) hy hx

/-- Settles O49: the text is `h` records of `w + 1` characters, the last of each its newline. -/
theorem asciiRenderingShowsThePixels : Obligations.AsciiRenderingShowsThePixels := by
  intro s hs hv fromPacked
  refine ⟨_, _, State.bitmap_of_valid hv, renderAscii_boundBitmap hs hv fromPacked,
    length_asciiText s.boundBitmap fromPacked, fun y hy => ⟨?_, fun x hx => ?_⟩⟩
  · have hchar := getElem?_asciiText s.boundBitmap fromPacked hy (Nat.lt_succ_self s.w)
    simpa [asciiChar] using hchar
  · obtain ⟨b, hcell, hbit, hpixel⟩ := State.exists_pixel hs hx hy
    have hchar := getElem?_asciiText s.boundBitmap fromPacked hy (Nat.lt_succ_of_lt hx)
    exact ⟨b, hcell, hbit, by simpa [asciiChar, hx, hpixel] using hchar⟩

/-- The text depends on the path through the pixels alone. -/
theorem asciiText_congr {b : Bitmap} {f f' : Bool} (hpix : ∀ y < b.h, ∀ x < b.w, b.pixel f x y = b.pixel f' x y) :
    asciiText b f = asciiText b f' := by
  refine List.flatMap_congr fun y hy => List.map_congr_left fun x _ => ?_
  rw [asciiChar, asciiChar]
  split
  next hx => rw [hpix y (List.mem_range.1 hy) x hx]
  next => rfl

/-- Settles O50: a pixel has the same value on both paths. -/
theorem asciiRenderingPathsAgree : Obligations.AsciiRenderingPathsAgree := by
  intro s hs hv
  have hpaths : asciiText s.boundBitmap false = asciiText s.boundBitmap true := by
    refine asciiText_congr fun y hy x hx => ?_
    obtain ⟨b, -, -, hpixel⟩ := State.exists_pixel hs hx hy
    rw [hpixel, hpixel]
  exact ⟨_, _, State.bitmap_of_valid hv, renderAscii_boundBitmap hs hv true,
    hpaths ▸ renderAscii_boundBitmap hs hv false⟩

theorem asciiText_of_h_eq_zero {b : Bitmap} (hh : b.h = 0) (fromPacked : Bool) : asciiText b fromPacked = [] := by
  simp [asciiText, hh]

/-- With no column every row is its newline alone. -/
theorem asciiText_of_w_eq_zero {b : Bitmap} (hw : b.w = 0) (fromPacked : Bool) :
    asciiText b fromPacked = List.replicate b.h '\n' := by
  refine List.eq_replicate_iff.2 ⟨by simp [length_asciiText, hw], fun c hc => ?_⟩
  obtain ⟨y, -, hrow⟩ := List.mem_flatMap.1 hc
  obtain ⟨x, -, rfl⟩ := List.mem_map.1 hrow
  simp [asciiChar, hw]

/-- Settles O51: the check of the dimensions fails, or a text is drawn with no row or with no column. -/
theorem asciiRenderingOfZeroDimensions : Obligations.AsciiRenderingOfZeroDimensions := by
  refine ⟨fun p b f hfault hdim => ?_, fun s hs hv hfault => ?_, fun p b f hfault hb => ?_⟩
  · exact renderAscii_of_zeroDim ((zeroDim_eq_true ..).2 ⟨hfault, hdim⟩) f
  · obtain ⟨-, hdims, -, -⟩ := hs
    simpa only [Nat.one_le_iff_ne_zero] using (zeroDim_eq_false ..).1 (State.zeroDim_of_bound hdims hv) hfault
  · have hz : zeroDim p b.w b.h = false := by simp [zeroDim, hfault]
    rw [renderAscii_eq_ok hz hb]
    exact ⟨fun hh => congrArg Except.ok (asciiText_of_h_eq_zero hh f),
      fun hw => congrArg Except.ok (asciiText_of_w_eq_zero hw f)⟩

end Sys2Proof.Machine
end

section
/-! `renderCArray`: its text as a recursion over the lines, each chunk the next `lineWidth` bytes (rules R103, R104). -/

namespace Sys2Proof.Machine

theorem hexDigits_getD : ∀ k < 16, hexDigits.getD k '0' = (Nat.digitChar k).toUpper := by decide

/-- A byte's two digits are both below 16. -/
theorem hexByte_eq (b : Byte) : hexByte b =
    ['0', 'x', (Nat.digitChar (b.toNat / 16)).toUpper, (Nat.digitChar (b.toNat % 16)).toUpper] := by
  have hb : b.toNat < 256 := b.isLt
  rw [hexByte, hexDigits_getD _ (by omega), hexDigits_getD _ (by omega)]

theorem joinText_eq_intercalate (sep : Text) (ts : List Text) : joinText sep ts = List.intercalate sep ts := by
  fun_induction joinText sep ts with
  | case1 => rw [List.intercalate_nil]
  | case2 t => rw [List.intercalate_singleton]
  | case3 t u ts ih => rw [ih, List.intercalate_cons_cons]

theorem joinText_cons_of_ne_nil (sep t : Text) {ts : List Text} (h : ts ≠ []) :
    joinText sep (t :: ts) = t ++ sep ++ joinText sep ts := by
  cases ts with
  | nil => exact absurd rfl h
  | cons u us => rfl

theorem chunksOf_nil {n : Nat} (hn : 1 ≤ n) : chunksOf n [] = [] := by
  have hcount : (0 + n - 1) / n = 0 := Nat.div_eq_of_lt (by omega)
  rw [chunksOf, List.length_nil, hcount]
  rfl

/-- A nonempty sequence begins with a chunk and has one chunk more than what is left after its first `n` bytes. -/
theorem chunksOf_of_ne_nil {n : Nat} {bs : List Byte} (hn : 1 ≤ n) (hbs : bs ≠ []) :
    chunksOf n bs = bs.take n :: chunksOf n (bs.drop n) := by
  have hpos : 0 < bs.length := List.length_pos_iff.2 hbs
  have hcount : (bs.length + n - 1) / n = (bs.length - 1) / n + 1 := by
    rw [← Nat.add_div_right _ hn]
    congr 1
    omega
  have hrest : ((bs.drop n).length + n - 1) / n = (bs.length - 1) / n := by
    rw [List.length_drop]
    obtain hle | hge := Nat.le_total bs.length n
    · rw [Nat.div_eq_of_lt (by omega), Nat.div_eq_of_lt (by omega)]
    · congr 1
      omega
  rw [chunksOf, chunksOf, hcount, hrest, List.range_succ_eq_map]
  simp [List.drop_drop, Nat.add_one_mul, Nat.add_comm]

theorem renderCArray_eq_error_iff (bs : List Byte) (lead : Text) (n : Int) :
    renderCArray bs lead n = .error .valueErrorKind ↔ n < 1 := by
  simp [renderCArray]

section
variable {n : Nat} (hn : 1 ≤ n)
include hn

theorem renderCArray_eq_ok (bs : List Byte) (lead : Text) :
    renderCArray bs lead n = .ok (joinText [',', '\n'] ((chunksOf n bs).map (cArrayLine lead))) :=
  if_neg (by omega)

theorem renderCArray_nil (lead : Text) : renderCArray [] lead n = .ok [] := by
  rw [renderCArray_eq_ok hn, chunksOf_nil hn]
  rfl

/-- What fits one line is one line. -/
theorem renderCArray_of_length_le {bs : List Byte} (hbs : bs ≠ []) (hl : bs.length ≤ n) (lead : Text) :
    renderCArray bs lead n = .ok (cArrayLine lead bs) := by
  rw [renderCArray_eq_ok hn, chunksOf_of_ne_nil hn hbs, List.take_of_length_le hl, List.drop_of_length_le hl,
    chunksOf_nil hn]
  rfl

/-- More than a line is the first line, the separator, and the rendering of the rest. -/
theorem renderCArray_of_lt_length {bs : List Byte} (hl : n < bs.length) (lead : Text) :
    ∃ rest, renderCArray (bs.drop n) lead n = .ok rest ∧
      renderCArray bs lead n = .ok (cArrayLine lead (bs.take n) ++ [',', '\n'] ++ rest) := by
  have hbs : bs ≠ [] := List.ne_nil_of_length_pos (Nat.zero_lt_of_lt hl)
  have hrest : bs.drop n ≠ [] := by simpa using hl
  have hlines : (chunksOf n (bs.drop n)).map (cArrayLine lead) ≠ [] := by simp [chunksOf_of_ne_nil hn hrest]
  refine ⟨_, renderCArray_eq_ok hn _ _, ?_⟩
  rw [renderCArray_eq_ok hn, chunksOf_of_ne_nil hn hbs, List.map_cons, joinText_cons_of_ne_nil _ _ hlines]

end

theorem cArrayLine_eq_intercalate (lead : Text) (chunk : List Byte) :
    cArrayLine lead chunk = lead ++ List.intercalate [',', ' '] (chunk.map hexByte) := by
  rw [cArrayLine, joinText_eq_intercalate]

/-- Settles O52: the digits of a byte, then no line, one line, or a line and the rest. -/
theorem cArrayRenderingSplitsIntoLines : Obligations.CArrayRenderingSplitsIntoLines := by
  refine ⟨hexByte_eq, fun bs lead => ⟨renderCArray_eq_error_iff bs lead, fun n hn => renderCArray_nil hn lead,
    fun n hbs hl => ?_, fun n hn hl => ?_⟩⟩
  · have hn : 1 ≤ n := (List.length_pos_iff.2 hbs).trans_le hl
    rw [renderCArray_of_length_le hn hbs hl, cArrayLine_eq_intercalate]
  · rw [← cArrayLine_eq_intercalate]
    exact renderCArray_of_lt_length hn hl lead

end Sys2Proof.Machine
end

section
/-! The Bitmap aggregate: what LDIMG and LDRAW bind after their checks (rules R110, R111), what INVERT does to both
stores (rules R112 to R114), and the padding bits that one INVERT leaves set (rule R115). -/

namespace Sys2Proof.Machine

/-! ### Binding a Bitmap -/

/-- The bits of `w` columns are the bits of NB(w, h) bytes (rule R35). -/
theorem mul_padHeight_eq (w h : Nat) : w * padHeight h = 8 * numBytes w h := by
  rw [padHeight_eq, numBytes_eq, Nat.mul_left_comm]

theorem zeroDim_eq_false_of_ne_zero {p : Params} {w h : Nat} (hdim : p.zeroDimFault = true → w ≠ 0 ∧ h ≠ 0) :
    zeroDim p w h = false := by
  rw [zeroDim_eq_false]
  simpa only [Nat.one_le_iff_ne_zero] using hdim

/-- The stores of a bound Bitmap have their sizes and agree when the grid has its cells, and the bytes are as many as
the dimensions say and hold the grid's pixels (rule R17). -/
theorem State.bindBitmap_storesOk_agrees (s : State) (o : Origin) {g : Grid Bit} {bs : List Byte}
    (hg : g.shapeOk = true) (hl : bs.length = numBytes g.w g.h)
    (hpix : ∀ x < g.w, ∀ y < g.h, seqBit bs (bitIndex x y g.h) = g.cell x y) :
    (s.bindBitmap o g bs).StoresOk ∧ (s.bindBitmap o g bs).Agrees := by
  obtain ⟨hcols, hrows⟩ := g.shapeOk_iff.1 hg
  refine ⟨⟨hcols, hrows, ?_⟩, fun x hx y hy => ?_⟩
  · rw [bindBitmap_bits, Memory.map_fst_ofBytes, hl, bindBitmap_w, bindBitmap_h]
  · rw [bindBitmap_bits, Memory.bit_ofBytes]
    exact hpix x hx y hy

/-- LDIMG ends with the response of the check that its operand fails. -/
theorem exec_ldimg_of_error {s : State} {o : Operand} {r : Response} (h : pixOperand s.cfg o = .error r) :
    exec (.ldimg o) s = answer r s := by
  simp only [exec, execLdimg, h]

theorem ldimg_storesOk_agrees (s : State) {b : PixBuf} (hb : b.wellFormed s.cfg = true) :
    (s.bindBitmap .img (quantize b) (pack (quantize b)).bits).StoresOk ∧
      (s.bindBitmap .img (quantize b) (pack (quantize b)).bits).Agrees := by
  have hg := quantize_shapeOk s.cfg b hb
  exact s.bindBitmap_storesOk_agrees .img hg (length_pack_bits _) fun x hx y hy => seqBit_pack_eq_cell hg hx hy

/-- Settles O25: the operand fails the check of its kind, fails the check of its dimensions, or is bound with the
packed bytes of its quantized grid. -/
theorem ldimgBindsTheImage : Obligations.LdimgBindsTheImage := by
  refine fun s => ⟨fun o ho => ?_, fun b hfault hdim => ?_, fun b hb hdim => ?_⟩
  · exact exec_ldimg_of_error (pixOperand_of_not_pixBuf s.cfg ho)
  · exact exec_ldimg_of_error (pixOperand_of_zeroDim ((zeroDim_eq_true ..).2 ⟨hfault, hdim⟩))
  · obtain ⟨hstores, hagree⟩ := ldimg_storesOk_agrees s hb
    refine ⟨_, exec_ldimg_pixBuf (zeroDim_eq_false_of_ne_zero hdim), rfl, quantize_w b, quantize_h b, rfl, rfl, rfl,
      cell_quantize b, Memory.bytes_ofBytes _, hstores, hagree, fun k hk hpad => ?_, rfl, rfl⟩
    exact (Memory.bit_ofBytes ..).trans (seqBit_pack_of_isPadding hk hpad)

/-- LDRAW ends with the response of the check that its operands fail. -/
theorem exec_ldraw_of_error {s : State} {o : Operand} {w h : Nat} {r : Response}
    (he : rawOperand s.cfg o w h = .error r) : exec (.ldraw o w h) s = answer r s := by
  simp only [exec, execLdraw, he]

theorem exec_ldraw_rawBytes {s : State} {bs : List Byte} {w h : Nat} (hw : w < 2 ^ s.cfg.dimw)
    (hh : h < 2 ^ s.cfg.dimw) (hz : zeroDim s.cfg w h = false) (hl : numBytes w h ≤ bs.length) :
    exec (.ldraw (.rawBytes bs) w h) s =
      answer (.ok .nothing) (s.bindBitmap .raw (unpack bs w h) (bs.take (numBytes w h))) := by
  simp only [exec, execLdraw, (rawOperand_eq_ok ..).2 ⟨hw, hh, rfl, hz, hl⟩]

section
variable {bs : List Byte} {w h : Nat} (hl : numBytes w h ≤ bs.length)
include hl

theorem ldraw_storesOk_agrees (s : State) :
    (s.bindBitmap .raw (unpack bs w h) (bs.take (numBytes w h))).StoresOk ∧
      (s.bindBitmap .raw (unpack bs w h) (bs.take (numBytes w h))).Agrees := by
  refine s.bindBitmap_storesOk_agrees .raw (unpack_shapeOk ..) (List.length_take_of_le hl) fun x hx y hy => ?_
  exact (seqBit_take (bitIndex_div_lt_numBytes hx hy)).trans (cell_unpack hl hx hy).symm

/-- The bytes that are kept are the packed grid exactly when no padding bit among them is set (rule R111). -/
theorem take_eq_pack_unpack_iff : bs.take (numBytes w h) = (pack (unpack bs w h)).bits ↔
    ∀ k, k < w * padHeight h → IsPadding h k → seqBit bs k = some false := by
  have htake : (bs.take (numBytes w h)).length = numBytes w h := List.length_take_of_le hl
  have hbyte {k : Nat} (hk : k < w * padHeight h) : k / 8 < numBytes w h := by
    rw [mul_padHeight_eq] at hk
    exact Nat.div_lt_of_lt_mul hk
  have hgrid : unpack bs w h = unpack (bs.take (numBytes w h)) w h :=
    unpack_congr fun x hx y hy => (seqBit_take (bitIndex_div_lt_numBytes hx hy)).symm
  rw [hgrid, eq_comm, pack_unpack_eq_iff htake.ge, and_iff_right htake]
  exact forall₂_congr fun k hk => by rw [seqBit_take (hbyte hk)]

end

/-- Settles O26: the operands fail a check as UNPACK's do, or the kept bytes are bound with the unpacked grid. -/
theorem ldrawBindsTheRawBytes : Obligations.LdrawBindsTheRawBytes := by
  intro s w h
  rw [← numBytes_eq]
  refine ⟨fun o hdim => ?_, fun hw hh => ⟨fun o ho => ?_, fun bs hbad => ?_, fun bs hdim hl => ?_⟩⟩
  · exact exec_ldraw_of_error (rawOperand_of_not_fitsDim o hdim)
  · exact exec_ldraw_of_error (rawOperand_of_not_rawBytes hw hh ho)
  · exact exec_ldraw_of_error (rawOperand_of_zeroDim_or_short hw hh (hbad.imp_left (zeroDim_eq_true ..).2))
  · obtain ⟨hstores, hagree⟩ := ldraw_storesOk_agrees hl s
    have hbytes := Memory.bytes_ofBytes (bs.take (numBytes w h))
    have hread (i : Nat) := (Memory.read_ofBytes (bs.take (numBytes w h)) i).trans List.getElem?_take
    refine ⟨_, exec_ldraw_rawBytes hw hh (zeroDim_eq_false_of_ne_zero hdim) hl, rfl, rfl, rfl, rfl, rfl, rfl,
      hbytes, ?_, hread, hstores, hagree, rfl, rfl⟩
    exact (Eq.congr_left hbytes).trans (take_eq_pack_unpack_iff hl)

/-! ### Complementing both stores -/

theorem exec_invert_bound {s : State} (hv : s.valid = true) :
    exec .invert s = answer (.ok .nothing) s.complement := by
  simp [exec, execInvert, hv]

theorem State.complement_storesOk {s : State} (hs : s.StoresOk) : s.complement.StoresOk := by
  obtain ⟨hw, hh, hbits⟩ := hs
  refine ⟨?_, ?_, ?_⟩
  · simpa using hw
  · simpa using hh
  · simpa [Memory.map_fst_complement] using hbits

theorem State.cell_complement (s : State) (x y : Nat) : s.complement.cell x y = (s.cell x y).map fun b => !b :=
  cellOf_map ..

/-- Bit and cell of a pixel are both negated (rule R114). -/
theorem State.complement_agrees {s : State} (ha : s.Agrees) : s.complement.Agrees := by
  intro x hx y hy
  rw [complement_bits, complement_h, Memory.bit_complement, cell_complement, ha x hx y hy]

/-- Settles O29: complementing keeps the sizes of both stores, and their agreement. -/
theorem invertKeepsTheStoresEqual : Obligations.InvertKeepsTheStoresEqual :=
  fun _ hv hs ha => ⟨_, exec_invert_bound hv, State.complement_storesOk hs, State.complement_agrees ha⟩

/-- The complement of a byte as arithmetic (rule R8). -/
theorem xor_0xFF_eq_ofNat (b : Byte) : b ^^^ 0xFF#8 = BitVec.ofNat 8 (255 - b.toNat) := by
  have hnot : b ^^^ 0xFF#8 = ~~~b := BitVec.xor_allOnes
  have hb := b.isLt
  refine BitVec.eq_of_toNat_eq ?_
  rw [hnot, BitVec.toNat_not, BitVec.toNat_ofNat]
  omega

theorem Memory.bytes_complement (m : Memory) : m.complement.bytes = m.bytes.map fun b => b ^^^ 0xFF#8 := by
  simp [Memory.bytes, Memory.complement, Function.comp_def]

theorem seqBit_map_complement (bs : List Byte) (k : Nat) :
    seqBit (bs.map fun b => b ^^^ 0xFF#8) k = (seqBit bs k).map fun b => !b := by
  simp only [seqBit, List.getElem?_map, Option.map_map, Function.comp_def,
    byteBit_complement _ _ (Nat.mod_lt k (by decide : 0 < 8))]

/-- With a height that is a multiple of 8 every bit is a pixel's (rule R34). -/
theorem not_isPadding_of_mod_eq_zero {w h k : Nat} (hh : h % 8 = 0) (hk : k < w * padHeight h) :
    ¬ IsPadding h k := by
  have hpad : padHeight h = h := by unfold padHeight; omega
  rw [hpad] at hk
  rw [IsPadding, hpad, Nat.not_le]
  exact Nat.mod_lt k (Nat.pos_of_mul_pos_left (Nat.zero_lt_of_lt hk))

/-- Where there is no padding, packing the complemented grid complements the packed bytes (rule R112). -/
theorem pack_map_not {g : Grid Bit} (hg : g.shapeOk = true) (hh : g.h % 8 = 0) :
    (pack (g.map fun b => !b)).bits = (pack g).bits.map fun b => b ^^^ 0xFF#8 := by
  have hgn : (g.map fun b => !b).shapeOk = true := (Grid.shapeOk_map ..).trans hg
  have hlen : (pack (g.map fun b => !b)).bits.length = numBytes g.w g.h := length_pack_bits _
  refine eq_of_seqBit_eq (by rw [hlen, List.length_map, length_pack_bits]) fun k hk => ?_
  rw [hlen, ← mul_padHeight_eq] at hk
  obtain ⟨x, y, hx, hy, rfl⟩ := (exists_bitIndex_iff_not_isPadding hk).2 (not_isPadding_of_mod_eq_zero hh hk)
  rw [seqBit_map_complement, seqBit_pack_eq_cell hg hx hy, ← Grid.cell_map]
  exact seqBit_pack_eq_cell hgn hx hy

/-- With a height that is a multiple of 8, bytes that are the packed grid stay so when both are complemented. -/
theorem State.complement_bytes_eq_pack {s : State} (hs : s.StoresOk) (hh : s.h % 8 = 0)
    (hpack : s.bits.bytes = (pack ⟨s.w, s.h, s.grid⟩).bits) :
    s.complement.bits.bytes = (pack ⟨s.complement.w, s.complement.h, s.complement.grid⟩).bits := by
  obtain ⟨hw, hrows, -⟩ := hs
  have hg : (⟨s.w, s.h, s.grid⟩ : Grid Bit).shapeOk = true := (Grid.shapeOk_iff _).2 ⟨hw, hrows⟩
  calc s.complement.bits.bytes = s.bits.bytes.map fun b => b ^^^ 0xFF#8 := Memory.bytes_complement s.bits
    _ = (pack ((⟨s.w, s.h, s.grid⟩ : Grid Bit).map fun b => !b)).bits := by rw [hpack, pack_map_not hg hh]

/-- Settles O27: what complementing does to a cell, to a byte, and to bytes that are the packed grid. -/
theorem invertComplementsBothStores : Obligations.InvertComplementsBothStores := by
  refine ⟨fun s hv => exec_invert_unbound hv, fun s hv => ?_⟩
  refine ⟨_, exec_invert_bound hv, rfl, rfl, rfl, rfl, rfl, ⟨rfl, rfl⟩, s.cell_complement, fun i => ?_,
    State.complement_bytes_eq_pack⟩
  simp only [← xor_0xFF_eq_ofNat]
  exact Memory.read_complement s.bits i

theorem Memory.complement_complement (m : Memory) : m.complement.complement = m := by
  simp [Memory.complement, Function.comp_def]

theorem State.complement_complement (s : State) : s.complement.complement = s := by
  simp [complement, Memory.complement_complement, Function.comp_def]

/-- Equal architectural state is equal in the visible region (rule R167). -/
theorem sameVisible_of_sameBitmap {s t : State} (h : SameBitmap s t) : SameVisible s t := by
  obtain ⟨hw, hh, -, -, hgrid, hbits⟩ := h
  exact ⟨hw, hh, fun x _ y _ => ⟨by rw [State.cell, hgrid, State.cell], by rw [hbits]⟩⟩

/-- Settles O28: complementing twice is the identity, and a response is no part of the Bitmap. -/
theorem invertTwiceRestoresTheBitmap : Obligations.InvertTwiceRestoresTheBitmap := by
  intro s hv
  have hsame : SameBitmap s (s.complement.complement.respond (.ok .nothing)) := by
    rw [s.complement_complement]
    exact s.respond_sameBitmap _
  exact ⟨_, _, exec_invert_bound hv, exec_invert_bound (s := s.complement.respond _) hv, hsame,
    sameVisible_of_sameBitmap hsame⟩

/-- Settles O30, a command at a time. -/
theorem unboundBlockRefuses : Obligations.UnboundBlockRefuses :=
  fun _ hv => ⟨exec_invert_unbound hv, exec_rdbit_unbound hv, exec_rdpix_unbound hv, exec_rdbyte_unbound hv⟩

/-! ### The padding bits after INVERT -/

theorem State.bit_eq_seqBit {s : State} (hs : s.StoresOk) (k : Nat) : s.bits.bit k = seqBit s.bits.bytes k := by
  obtain ⟨-, -, hbits⟩ := hs
  rw [← Memory.bit_ofBytes, Memory.ofBytes_bytes hbits]

/-- With a height that is no multiple of 8 the first column ends in padding: row `h` is a padding row of it. -/
theorem exists_isPadding {w h : Nat} (hw : w ≠ 0) (hh : h % 8 ≠ 0) : ∃ k, k < w * padHeight h ∧ IsPadding h k := by
  have hrow : h < padHeight h := by unfold padHeight; omega
  exact ⟨h, hrow.trans_le (Nat.le_mul_of_pos_left _ (Nat.pos_of_ne_zero hw)), (Nat.mod_eq_of_lt hrow).ge⟩

/-- Bytes with a padding bit set are no packed grid, whose padding bits are all 0. -/
theorem bytes_ne_pack_of_isPadding {g : Grid Bit} {bs : List Byte} {k : Nat} (hk : k < g.w * padHeight g.h)
    (hpad : IsPadding g.h k) (hset : seqBit bs k = some true) : bs ≠ (pack g).bits := by
  rintro rfl
  cases hset.symm.trans (seqBit_pack_of_isPadding hk hpad)

/-- Settles O31: LDIMG leaves every padding bit 0 and INVERT negates it; so BITS is no packed grid where there is
padding, and still one where there is none. -/
theorem paddingBitsAreSetAfterOneInvert : Obligations.PaddingBitsAreSetAfterOneInvert := by
  intro s b hb hw hh
  obtain ⟨-, -, hbind⟩ := ldimgBindsTheImage s
  obtain ⟨t, hexec, -, htw, hth, hv, -, -, -, hpack, hstores, -, hclear, -⟩ := hbind b hb fun _ => ⟨hw, hh⟩
  have hset (k : Nat) (hk : k < t.w * padHeight t.h) (hpad : IsPadding t.h k) :
      t.complement.bits.bit k = some true := by
    rw [State.complement_bits, Memory.bit_complement, hclear k hk hpad, Option.map_some, Bool.not_false]
  refine ⟨t, _, hexec, exec_invert_bound hv, hset, fun hmod => ?_, fun hmod => ?_⟩
  · obtain ⟨k, hk, hpad⟩ := exists_isPadding (htw ▸ hw) (hth ▸ hmod)
    refine bytes_ne_pack_of_isPadding hk hpad ?_
    exact (State.bit_eq_seqBit (State.complement_storesOk hstores) k).symm.trans (hset k hk hpad)
  · exact State.complement_bytes_eq_pack hstores (hth ▸ hmod) hpack

end Sys2Proof.Machine
end

section
/-! The readouts RDBIT, RDPIX and RDBYTE (spec/45_readout.md): each is refused out of range (rule R128), and in range
answers what its store holds there (rules R125 to R127). -/

namespace Sys2Proof.Machine

/-! ### Out of range -/

section
variable {s : State} {x y : Nat} (hout : s.valid = false ∨ s.w ≤ x ∨ s.h ≤ y)
include hout

theorem pixelInRange_of_out : pixelInRange s x y = .error .refused := by
  obtain hv | hxy := hout
  · exact pixelInRange_unbound hv x y
  · have hrange : ¬ (x < s.w ∧ y < s.h) := by omega
    simp [pixelInRange, hrange]

theorem exec_rdbit_of_out : exec (.rdbit x y) s = refuse s := by
  simp only [exec, execRdbit, pixelInRange_of_out hout]
  rfl

theorem exec_rdpix_of_out : exec (.rdpix x y) s = refuse s := by
  simp only [exec, execRdpix, pixelInRange_of_out hout]
  rfl

end

theorem byteInRange_of_out {s : State} {i : Nat} (hout : s.valid = false ∨ numBytes s.w s.h ≤ i) :
    byteInRange s i = .error .refused := by
  obtain hv | hi := hout
  · exact byteInRange_unbound hv i
  · simp [byteInRange, Nat.not_lt.2 hi]

theorem exec_rdbyte_of_out {s : State} {i : Nat} (hout : s.valid = false ∨ numBytes s.w s.h ≤ i) :
    exec (.rdbyte i) s = refuse s := by
  simp only [exec, execRdbyte, byteInRange_of_out hout]
  rfl

/-- Settles O36: the range check fails, and its failure is a refusal. -/
theorem outOfRangeReadoutsAreRefused : Obligations.OutOfRangeReadoutsAreRefused :=
  fun _ => ⟨fun _ _ hout => ⟨exec_rdbit_of_out hout, exec_rdpix_of_out hout⟩, fun _ hout => exec_rdbyte_of_out hout⟩

/-! ### What the stores hold in range -/

namespace State

variable {s : State} (hs : s.StoresOk)
include hs

/-- Every pixel has its cell of GRID (rule R15). -/
theorem exists_cell {x y : Nat} (hx : x < s.w) (hy : y < s.h) : ∃ b, s.cell x y = some b := by
  obtain ⟨hw, hh, -⟩ := hs
  exact Option.isSome_iff_exists.1 ((cellOf_isSome_iff hw hh x y).2 ⟨hx, hy⟩)

/-- BITS has its bytes 0 to NB(W, H) - 1 (rule R16). -/
theorem exists_byte {i : Nat} (hi : i < numBytes s.w s.h) : ∃ b, s.bits.read i = some b := by
  obtain ⟨-, -, hbits⟩ := hs
  exact Option.isSome_iff_exists.1 ((s.bits.read_isSome_iff i).2 (hbits ▸ List.mem_range.2 hi))

/-- Address `i` of BITS is place `i` of its bytes in order. -/
theorem read_eq_getElem? (i : Nat) : s.bits.read i = s.bits.bytes[i]? := by
  obtain ⟨-, -, hbits⟩ := hs
  rw [← Memory.read_ofBytes, Memory.ofBytes_bytes hbits]

end State

/-! ### In range -/

section
variable {s : State} (hv : s.valid = true)
include hv

theorem exec_rdbit_inRange {x y : Nat} {b : Bit} (hx : x < s.w) (hy : y < s.h)
    (hb : s.bits.bit (bitIndex x y s.h) = some b) : exec (.rdbit x y) s = answer (.ok (.bit b)) s := by
  simp only [exec, execRdbit, (pixelInRange_eq_ok ..).2 ⟨rfl, hv, hx, hy⟩, hb]

theorem exec_rdpix_inRange {x y : Nat} {b : Bit} (hx : x < s.w) (hy : y < s.h) (hb : s.cell x y = some b) :
    exec (.rdpix x y) s = answer (.ok (.bit b)) s := by
  simp only [exec, execRdpix, (pixelInRange_eq_ok ..).2 ⟨rfl, hv, hx, hy⟩, hb]

theorem exec_rdbyte_inRange {i : Nat} {b : Byte} (hi : i < numBytes s.w s.h) (hb : s.bits.read i = some b) :
    exec (.rdbyte i) s = answer (.ok (.byte b)) s := by
  simp only [exec, execRdbyte, (byteInRange_eq_ok ..).2 ⟨rfl, hv, hi⟩, hb]

end

/-- Settles O33: a pixel's bit lies in a byte that BITS has. -/
theorem rdbitAnswersThePackedBit : Obligations.RdbitAnswersThePackedBit := by
  refine fun s x y => ⟨exec_rdbit_of_out, fun hv hx hy hs => ?_⟩
  have hi : x * colBytes s.h + y / 8 < numBytes s.w s.h := bitIndex_div x y s.h ▸ bitIndex_div_lt_numBytes hx hy
  obtain ⟨b, hb⟩ := State.exists_byte hs hi
  have hbit := (State.bit_eq_seqBit hs _).trans (seqBit_bitIndex (State.read_eq_getElem? hs _ ▸ hb))
  exact ⟨b, hb, exec_rdbit_inRange hv hx hy hbit⟩

/-- In a state of the invariant a pixel out of range is refused by both, and one in range has one value in both
stores (rules R17, R126). -/
theorem exec_rdpix_eq_exec_rdbit {s : State} (hs : s.Inv) (x y : Nat) :
    exec (.rdpix x y) s = exec (.rdbit x y) s := by
  by_cases hout : s.valid = false ∨ s.w ≤ x ∨ s.h ≤ y
  · rw [exec_rdpix_of_out hout, exec_rdbit_of_out hout]
  · obtain ⟨hv, hx, hy⟩ : s.valid = true ∧ x < s.w ∧ y < s.h := by simpa using hout
    obtain ⟨b, hcell, hbit, -⟩ := State.exists_pixel hs hx hy
    rw [exec_rdpix_inRange hv hx hy hcell, exec_rdbit_inRange hv hx hy hbit]

/-- Settles O34: a pixel's cell is one that GRID has. -/
theorem rdpixAnswersTheCell : Obligations.RdpixAnswersTheCell := by
  refine fun s x y => ⟨exec_rdpix_of_out, fun hv hx hy hs => ?_, fun hs => exec_rdpix_eq_exec_rdbit hs x y⟩
  obtain ⟨b, hb⟩ := State.exists_cell hs hx hy
  exact ⟨b, hb, exec_rdpix_inRange hv hx hy hb⟩

/-- Settles O35: a byte in range is one that BITS has, and its address is its place. -/
theorem rdbyteAnswersTheStoredByte : Obligations.RdbyteAnswersTheStoredByte := by
  intro s i
  rw [← numBytes_eq]
  refine ⟨exec_rdbyte_of_out, fun hv hi hs => ?_⟩
  obtain ⟨b, hb⟩ := State.exists_byte hs hi
  exact ⟨b, hb, State.read_eq_getElem? hs i ▸ hb, exec_rdbyte_inRange hv hi hb⟩

end Sys2Proof.Machine
end

section
/-! The outcome of a command: the status of the check it makes, and the first cause in the order of rule R145
(rules R143, R145); a command that does not end OK only responds (rule R144). -/

namespace Sys2Proof.Machine

/-! ### The status a command ends with -/

/-- Command `i` in state `s` answers a next state whose response has status `st`. -/
def EndsWith (s : State) (i : Instr) (st : Status) : Prop :=
  ∃ t r, exec i s = .next t ∧ t.resp = some r ∧ r.status = st

theorem EndsWith.of_answer {s s' : State} {i : Instr} {r : Response} (h : exec i s = answer r s') :
    EndsWith s i r.status :=
  ⟨_, r, h, rfl, rfl⟩

/-- What a check of the operands comes to: OK when it passes, else the status of the response it ends with. -/
def checkStatus {α : Type} : Except Response α → Status
  | .ok _    => .ok
  | .error r => r.status

/-- A command that hands on the response of a check that fails, and ends OK when it passes, ends with the check's
status. -/
theorem EndsWith.of_check {α : Type} {s : State} {i : Instr} {c : Except Response α}
    (herror : ∀ r, c = .error r → exec i s = answer r s) (hok : ∀ a, c = .ok a → EndsWith s i .ok) :
    EndsWith s i (checkStatus c) := by
  cases c with
  | error r => exact .of_answer (herror r rfl)
  | ok a => exact hok a rfl

theorem endsWith_quant (s : State) (o : Operand) : EndsWith s (.quant o) (checkStatus (pixOperand s.cfg o)) := by
  refine .of_check (fun _ => exec_quant_of_error) fun b hb => ?_
  obtain ⟨rfl, hz⟩ := (pixOperand_eq_ok ..).1 hb
  exact .of_answer (exec_quant_pixBuf hz)

theorem endsWith_ldimg (s : State) (o : Operand) : EndsWith s (.ldimg o) (checkStatus (pixOperand s.cfg o)) := by
  refine .of_check (fun _ => exec_ldimg_of_error) fun b hb => ?_
  obtain ⟨rfl, hz⟩ := (pixOperand_eq_ok ..).1 hb
  exact .of_answer (exec_ldimg_pixBuf hz)

theorem endsWith_pack (s : State) (o : Operand) : EndsWith s (.pack o) (checkStatus (binOperand s.cfg o)) := by
  refine .of_check (fun _ => exec_pack_of_error) fun g hg => ?_
  obtain ⟨rfl, hz⟩ := (binOperand_eq_ok ..).1 hg
  exact .of_answer (exec_pack_bin hz)

theorem endsWith_unpack (s : State) (o : Operand) (w h : Nat) :
    EndsWith s (.unpack o w h) (checkStatus (rawOperand s.cfg o w h)) := by
  refine .of_check (fun _ => exec_unpack_of_error) fun bs hbs => ?_
  obtain ⟨hw, hh, rfl, hz, hl⟩ := (rawOperand_eq_ok ..).1 hbs
  exact .of_answer (exec_unpack_rawBytes hw hh hz hl)

theorem endsWith_ldraw (s : State) (o : Operand) (w h : Nat) :
    EndsWith s (.ldraw o w h) (checkStatus (rawOperand s.cfg o w h)) := by
  refine .of_check (fun _ => exec_ldraw_of_error) fun bs hbs => ?_
  obtain ⟨hw, hh, rfl, hz, hl⟩ := (rawOperand_eq_ok ..).1 hbs
  exact .of_answer (exec_ldraw_rawBytes hw hh hz hl)

/-! ### The first cause in the order of rule R145 -/

theorem operandDims_pixBuf (b : PixBuf) : operandDims (.pixBuf b) = (pixWidth b, pixHeight b) := by cases b <;> rfl

/-- The check of QUANT and LDIMG: the kind, then a zero dimension. -/
theorem checkStatus_pixOperand (s : State) (o : Operand) :
    checkStatus (pixOperand s.cfg o) = expectedStatus s (.quant o) := by
  cases o with
  | pixBuf b =>
    have hcause : valueErrorCause s.cfg (.quant (.pixBuf b)) = zeroDim s.cfg (pixWidth b) (pixHeight b) := by
      rw [valueErrorCause, operandDims_pixBuf, zeroDim]
    rw [expectedStatus, hcause, pixOperand]
    cases zeroDim s.cfg (pixWidth b) (pixHeight b) <;> rfl
  | unrecognized | reservedMode | rawBytes bs => rfl

/-- The check of PACK: the precondition, then a zero dimension. -/
theorem checkStatus_binOperand (s : State) (o : Operand) :
    checkStatus (binOperand s.cfg o) = expectedStatus s (.pack o) := by
  cases o with
  | pixBuf b =>
    cases b with
    | bin g =>
      have hcause : valueErrorCause s.cfg (.pack (.pixBuf (.bin g))) = zeroDim s.cfg g.w g.h := rfl
      rw [expectedStatus, hcause, binOperand]
      cases zeroDim s.cfg g.w g.h <;> rfl
    | gray g | other g => rfl
  | unrecognized | reservedMode | rawBytes bs => rfl

/-- The check of UNPACK and LDRAW: the arguments, the kind, then a zero dimension or too few bytes. -/
theorem checkStatus_rawOperand (s : State) (o : Operand) (w h : Nat) :
    checkStatus (rawOperand s.cfg o w h) = expectedStatus s (.unpack o w h) := by
  by_cases hdim : 2 ^ s.cfg.dimw ≤ w ∨ 2 ^ s.cfg.dimw ≤ h
  · have hearly : refusedEarly s (.unpack o w h) = true := decide_eq_true hdim
    rw [rawOperand_of_not_fitsDim o hdim, expectedStatus, hearly]
    rfl
  have hearly : refusedEarly s (.unpack o w h) = false := decide_eq_false hdim
  obtain ⟨hw, hh⟩ : w < 2 ^ s.cfg.dimw ∧ h < 2 ^ s.cfg.dimw := by omega
  cases o with
  | rawBytes bs =>
    have hcause : valueErrorCause s.cfg (.unpack (.rawBytes bs) w h) =
        (zeroDim s.cfg w h || decide (bs.length < numBytes w h)) := by
      rw [numBytes_eq]
      rfl
    rw [rawOperand_of_fitsDim hw hh, expectedStatus, hearly, hcause, rawBytesFor]
    cases zeroDim s.cfg w h
    · by_cases hl : bs.length < numBytes w h <;>
        simp [hl, typeErrorCause, isRawBytes, indexOutOfRange, checkStatus, Response.status]
    · rfl
  | unrecognized | reservedMode | pixBuf b =>
    rw [rawOperand_of_not_rawBytes hw hh rfl, expectedStatus, hearly]
    rfl

theorem endsWith_invert (s : State) : EndsWith s .invert (expectedStatus s .invert) := by
  rw [expectedStatus, refusedEarly]
  cases hv : s.valid with
  | false => exact .of_answer (exec_invert_unbound hv)
  | true => exact .of_answer (exec_invert_bound hv)

/-- A readout of a pixel is refused with no Bitmap bound or out of range, and answered in range. -/
theorem endsWith_of_pixelRange {s : State} {i : Instr} {x y : Nat}
    (hout : s.valid = false ∨ s.w ≤ x ∨ s.h ≤ y → exec i s = refuse s)
    (hin : s.valid = true → x < s.w → y < s.h → EndsWith s i .ok) :
    EndsWith s i (expectedStatus s (.rdbit x y)) := by
  have hcauses : expectedStatus s (.rdbit x y) =
      if s.valid = false ∨ s.w ≤ x ∨ s.h ≤ y then .refused else .ok := by
    cases hv : s.valid <;>
      simp [expectedStatus, refusedEarly, typeErrorCause, valueErrorCause, indexOutOfRange, hv]
  rw [hcauses]
  split
  next h => exact .of_answer (hout h)
  next h =>
    obtain ⟨hv, hx, hy⟩ : s.valid = true ∧ x < s.w ∧ y < s.h := by simpa using h
    exact hin hv hx hy

section
variable {s : State} (hs : s.StoresOk)
include hs

theorem endsWith_rdbit (x y : Nat) : EndsWith s (.rdbit x y) (expectedStatus s (.rdbit x y)) := by
  obtain ⟨hrefused, hok⟩ := rdbitAnswersThePackedBit s x y
  refine endsWith_of_pixelRange hrefused fun hv hx hy => ?_
  obtain ⟨b, -, hexec⟩ := hok hv hx hy hs
  exact .of_answer hexec

/-- RDPIX has the causes of RDBIT. -/
theorem endsWith_rdpix (x y : Nat) : EndsWith s (.rdpix x y) (expectedStatus s (.rdpix x y)) := by
  obtain ⟨hrefused, hok, -⟩ := rdpixAnswersTheCell s x y
  refine endsWith_of_pixelRange hrefused fun hv hx hy => ?_
  obtain ⟨b, -, hexec⟩ := hok hv hx hy hs
  exact .of_answer hexec

theorem endsWith_rdbyte (k : Nat) : EndsWith s (.rdbyte k) (expectedStatus s (.rdbyte k)) := by
  have hcauses : expectedStatus s (.rdbyte k) =
      if s.valid = false ∨ numBytes s.w s.h ≤ k then .refused else .ok := by
    cases hv : s.valid <;>
      simp [expectedStatus, refusedEarly, typeErrorCause, valueErrorCause, indexOutOfRange, hv, numBytes_eq]
  rw [hcauses]
  split
  next hout => exact .of_answer (exec_rdbyte_of_out hout)
  next hout =>
    obtain ⟨hv, hk⟩ : s.valid = true ∧ k < numBytes s.w s.h := by simpa using hout
    obtain ⟨b, hb⟩ := State.exists_byte hs hk
    exact .of_answer (exec_rdbyte_inRange hv hk hb)

/-- Every command ends with the status that the outcome table gives it; LDIMG has QUANT's causes, LDRAW UNPACK's. -/
theorem endsWith_expectedStatus (i : Instr) : EndsWith s i (expectedStatus s i) := by
  cases i with
  | quant o => exact checkStatus_pixOperand s o ▸ endsWith_quant s o
  | ldimg o => exact checkStatus_pixOperand s o ▸ endsWith_ldimg s o
  | pack o => exact checkStatus_binOperand s o ▸ endsWith_pack s o
  | unpack o w h => exact checkStatus_rawOperand s o w h ▸ endsWith_unpack s o w h
  | ldraw o w h => exact checkStatus_rawOperand s o w h ▸ endsWith_ldraw s o w h
  | invert => exact endsWith_invert s
  | rdbit x y => exact endsWith_rdbit hs x y
  | rdpix x y => exact endsWith_rdpix hs x y
  | rdbyte k => exact endsWith_rdbyte hs k

end

/-- Settles O37: a command ends with the status of the first check it fails, and a reserved opcode is refused. -/
theorem outcomeFollowsTheTable : Obligations.OutcomeFollowsTheTable :=
  ⟨fun _ i hs => endsWith_expectedStatus hs i, fun _ _ _ hin hop => ⟨_, step_of_reserved hin hop, rfl⟩⟩

/-- Settles O38: of what a command can do, all but the response alone ends OK. -/
theorem errorsChangeNoState : Obligations.ErrorsChangeNoState := by
  intro i s t h hbad
  obtain ⟨r, -, rfl⟩ | ⟨-, -, rfl⟩ | ⟨b, -, -, rfl⟩ | ⟨bs, w, k, -, -, -, -, -, rfl⟩ := exec_cases h
  · exact ⟨rfl, fun _ => rfl, fun _ _ => rfl⟩
  all_goals exact absurd rfl (hbad .nothing)

end Sys2Proof.Machine
end

section
/-! QUANT, PACK and UNPACK need no initialisation: their checks read the parameters only, and so does what they
answer (rule R161). -/

namespace Sys2Proof.Machine

/-- The operands and the parameters fix the response of QUANT, PACK or UNPACK before any state is given: it is the
response of the check that fails, or the result made of what the check passes. -/
theorem exists_response_of_pure (p : Params) {i : Instr}
    (hi : (∃ o, i = .quant o) ∨ (∃ o, i = .pack o) ∨ ∃ o w h, i = .unpack o w h) :
    ∃ r, ∀ s : State, s.cfg = p → exec i s = answer r s := by
  obtain ⟨o, rfl⟩ | ⟨o, rfl⟩ | ⟨o, w, h, rfl⟩ := hi
  · cases hcheck : pixOperand p o with
    | error r => exact ⟨r, fun s hs => exec_quant_of_error (hs ▸ hcheck)⟩
    | ok b =>
      obtain ⟨rfl, hz⟩ := (pixOperand_eq_ok ..).1 hcheck
      exact ⟨_, fun s hs => exec_quant_pixBuf (hs ▸ hz)⟩
  · cases hcheck : binOperand p o with
    | error r => exact ⟨r, fun s hs => exec_pack_of_error (hs ▸ hcheck)⟩
    | ok g =>
      obtain ⟨rfl, hz⟩ := (binOperand_eq_ok ..).1 hcheck
      exact ⟨_, fun s hs => exec_pack_bin (hs ▸ hz)⟩
  · cases hcheck : rawOperand p o w h with
    | error r => exact ⟨r, fun s hs => exec_unpack_of_error (hs ▸ hcheck)⟩
    | ok bs =>
      obtain ⟨hw, hh, rfl, hz, hl⟩ := (rawOperand_eq_ok ..).1 hcheck
      exact ⟨_, fun s hs => exec_unpack_rawBytes (hs ▸ hw) (hs ▸ hh) (hs ▸ hz) hl⟩

/-- Settles O42: the response is fixed by the parameters, which the two states share, and answering it changes
nothing else. -/
theorem pureCommandsIgnoreTheState : Obligations.PureCommandsIgnoreTheState := by
  intro i s s' hi hcfg
  obtain ⟨r, hr⟩ := exists_response_of_pure s.cfg hi
  exact ⟨r, hr s rfl, hr s' hcfg.symm⟩

end Sys2Proof.Machine
end

section
/-! What every step does and keeps: it waits with nothing sent (log entry 7), resets (rules R25, R160), never faults in
a state of the invariant, and keeps the parameters (rule R6), the canonical byte store (log entry 12) and VALID (rule
R13); all read off `step_cases`, and for its decoded command off `exec_cases`. -/

namespace Sys2Proof.Machine

/-! ### One step, by the event at the head of the inbox -/

/-- Settles O9: the step looks at the inbox first. -/
theorem emptyInboxStepsToItself : Obligations.EmptyInboxStepsToItself := by
  intro s hin
  simp only [step, hin]

theorem step_of_reset {s : State} {rest : List HostEvent} (hin : s.inbox = .reset :: rest) :
    step s = .next (s.afterReset rest) := by
  simp only [step, hin]

/-- Settles O10: the step is `State.afterReset`, whose stores are empty. -/
theorem resetEventUnbindsTheBitmap : Obligations.ResetEventUnbindsTheBitmap :=
  fun _ _ hin => ⟨_, step_of_reset hin, rfl, rfl, rfl, fun _ _ => rfl, fun _ => rfl, rfl, rfl⟩

/-- What the decoder rejects is refused with a response when its opcode is reserved, and given no meaning when its
operand object is none (rules R20, R54). -/
theorem step_of_decode_error {s : State} {c : Command} {rest : List HostEvent} {e : DecodeError}
    (hin : s.inbox = .command c :: rest) (hd : decode s.cfg c = .error e) : step s = reject e (s.accept rest) := by
  simp only [step, hin, hd]

/-- Settles O47: in a state whose stores match its dimensions every decoded command answers a next state, and so does
the refusal of a reserved opcode. -/
theorem stepNeverFaults : Obligations.StepNeverFaults := by
  intro s hs
  cases hin : s.inbox with
  | nil => exact .inl ⟨s, emptyInboxStepsToItself s hin⟩
  | cons e rest =>
    cases e with
    | reset => exact .inl ⟨_, step_of_reset hin⟩
    | command c =>
      cases hd : decode s.cfg c with
      | ok i =>
        obtain ⟨-, -, hstores, -⟩ := State.accept_inv hs rest
        obtain ⟨t, -, ht, -⟩ := endsWith_expectedStatus hstores i
        exact .inl ⟨t, (step_of_decode hin hd).trans ht⟩
      | error e =>
        have hreject := step_of_decode_error hin hd
        cases e with
        | reservedOpcode b => exact .inl ⟨_, hreject⟩
        | malformedOperand => exact .inr ⟨hreject, c, rest, rfl, hd⟩

/-! ### What every step keeps -/

/-- Settles O46: reset and taking an event from the inbox keep the parameters, and so does every command. -/
theorem stepKeepsTheParameters : Obligations.StepKeepsTheParameters := by
  intro s t h
  obtain ⟨-, rfl⟩ | ⟨rest, -, rfl⟩ | ⟨c, rest, i, -, -, he⟩ | ⟨c, rest, -, -, -, rfl⟩ := step_cases h
  · rfl
  · rfl
  · exact (exec_sameChannel he).1
  · rfl

/-- Every byte store that a command leaves is the one before, its complement, or that of a byte sequence. -/
theorem exec_bits_wf {i : Instr} {s t : State} (hs : s.bits.wf) (h : exec i s = .next t) : t.bits.wf := by
  obtain ⟨r, -, rfl⟩ | ⟨-, -, rfl⟩ | ⟨b, -, -, rfl⟩ | ⟨bs, w, k, -, -, -, -, -, rfl⟩ := exec_cases h
  · exact hs
  · exact State.complement_bits_wf hs
  · exact Memory.wf_ofBytes _
  · exact Memory.wf_ofBytes _

/-- Settles O45: reset's byte store is empty, and a command keeps the store canonical. -/
theorem stepKeepsTheByteStoreCanonical : Obligations.StepKeepsTheByteStoreCanonical := by
  intro s t hs h
  obtain ⟨-, rfl⟩ | ⟨rest, -, rfl⟩ | ⟨c, rest, i, -, -, he⟩ | ⟨c, rest, -, -, -, rfl⟩ := step_cases h
  · exact hs
  · exact State.reset_bits_wf
  · exact exec_bits_wf (s := s.accept rest) hs he
  · exact hs

/-! ### VALID -/

/-- No command clears VALID (rule R13). -/
theorem exec_valid_of_valid {i : Instr} {s t : State} (hv : s.valid = true) (h : exec i s = .next t) :
    t.valid = true := by
  obtain ⟨r, -, rfl⟩ | ⟨-, -, rfl⟩ | ⟨b, -, -, rfl⟩ | ⟨bs, w, k, -, -, -, -, -, rfl⟩ := exec_cases h
  · exact hv
  · exact hv
  · rfl
  · rfl

/-- A command that changes VALID is an LDIMG or LDRAW that ended OK (rule R13). -/
theorem exec_valid_ne {i : Instr} {s t : State} (h : exec i s = .next t) (hne : t.valid ≠ s.valid) :
    t.resp = some (.ok .nothing) ∧ ((∃ o, i = .ldimg o) ∨ ∃ o w h, i = .ldraw o w h) :=
  (onlyThreeCommandsWriteTheBitmap i s t h).2 (.inr (.inr (.inr hne)))

/-- Settles O48: waiting and a refusal leave VALID, reset clears it, and no command clears it. -/
theorem onlyResetClearsValid : Obligations.OnlyResetClearsValid := by
  intro s t h
  obtain ⟨-, rfl⟩ | ⟨rest, hin, rfl⟩ | ⟨c, rest, i, hin, hd, he⟩ | ⟨c, rest, -, -, -, rfl⟩ := step_cases h
  · simp +contextual
  · exact ⟨fun _ _ => ⟨rest, hin⟩, nofun⟩
  · refine ⟨fun hs ht => ?_, fun hs ht => ?_⟩
    · have hkept : t.valid = true := exec_valid_of_valid (s := s.accept rest) hs he
      exact absurd (hkept.symm.trans ht) nofun
    · have hset : t.valid ≠ (s.accept rest).valid := by simp [hs, ht]
      obtain ⟨hok, hload⟩ := exec_valid_ne he hset
      exact ⟨hok, c, rest, i, hin, hd, hload⟩
  · simp +contextual

end Sys2Proof.Machine
end
